-- ==== Sys2Proof/Word.lean ====
section
/-! DEFINITION. The word types of the machine: the widths that spec/00_scope.md R5, R7 and R9 fix.
All values are unsigned (R7); a bit vector is used exactly where the spec numbers bits. -/

namespace Sys2Proof

/-- A 4-bit instruction field: `op`, `x`, `y` or `n` (R9). -/
abbrev Nibble := BitVec 4

/-- A memory byte, a general register or a timer (R20, R25, R29). -/
abbrev Byte := BitVec 8

/-- The 12-bit address immediate `nnn` (R9). -/
abbrev Imm12 := BitVec 12

/-- A 16-bit value: the instruction word, `pc`, `I`, a stack entry (R7, R22 to R24). -/
abbrev Word := BitVec 16

/-- One row of the screen: bit `x` is the cell in column `x`, 0..63 (R30). -/
abbrev ScreenRow := BitVec 64

/-- The framebuffer, 32 rows of 64 one-bit cells: cell `x + 64·y` is bit `x` of row `y` (R30). -/
abbrev Screen := Vector ScreenRow 32

end Sys2Proof
end

