-- ==== Sys2Proof/Syntax.lean ====
section
/-! DEFINITION. The instruction set: one constructor per row of spec/opcode_table.json (spec/30_encoding.md
R84), the three illegal-space rows of R87 among them. A field the decoder ignores (R86) is kept as an
operand `ign`, so that every 16-bit word is the word of exactly one well-formed instruction. -/

namespace Sys2Proof

/-- The instructions of CHIP8-CORE, in the table's order. -/
inductive Instr where
  /-- `0nnn` SYS, every `0x0xxx` word that is neither CLS nor RET (R120). -/
  | sys (nnn : Imm12)
  /-- `00E0` CLS; bits 11:8 are ignored (R191, R86). -/
  | cls (ign : Nibble)
  /-- `00EE` RET; bits 11:8 are ignored (R121, R86). -/
  | ret (ign : Nibble)
  /-- `1nnn` JP nnn (R122). -/
  | jp (nnn : Imm12)
  /-- `2nnn` CALL nnn (R123). -/
  | call (nnn : Imm12)
  /-- `3xkk` SE Vx, kk (R130). -/
  | seImm (x : Nibble) (kk : Byte)
  /-- `4xkk` SNE Vx, kk (R131). -/
  | sneImm (x : Nibble) (kk : Byte)
  /-- `5xy0` SE Vx, Vy; bits 3:0 are ignored (R132, R86). -/
  | seReg (x y : Nibble) (ign : Nibble)
  /-- `6xkk` LD Vx, kk (R140). -/
  | ldImm (x : Nibble) (kk : Byte)
  /-- `7xkk` ADD Vx, kk (R141). -/
  | addImm (x : Nibble) (kk : Byte)
  /-- `8xy0` LD Vx, Vy (R150). -/
  | ldReg (x y : Nibble)
  /-- `8xy1` OR Vx, Vy (R151). -/
  | orReg (x y : Nibble)
  /-- `8xy2` AND Vx, Vy (R152). -/
  | andReg (x y : Nibble)
  /-- `8xy3` XOR Vx, Vy (R153). -/
  | xorReg (x y : Nibble)
  /-- `8xy4` ADD Vx, Vy (R154). -/
  | addReg (x y : Nibble)
  /-- `8xy5` SUB Vx, Vy (R155). -/
  | subReg (x y : Nibble)
  /-- `8xy6` SHR Vx, Vy (R156). -/
  | shrReg (x y : Nibble)
  /-- `8xy7` SUBN Vx, Vy (R157). -/
  | subnReg (x y : Nibble)
  /-- `8xyE` SHL Vx, Vy (R158). -/
  | shlReg (x y : Nibble)
  /-- `9xy0` SNE Vx, Vy; bits 3:0 are ignored (R133, R86). -/
  | sneReg (x y : Nibble) (ign : Nibble)
  /-- `Annn` LD I, nnn (R170). -/
  | ldI (nnn : Imm12)
  /-- `Bnnn` JP V0, nnn (R124). -/
  | jpV0 (nnn : Imm12)
  /-- `Cxkk` RND Vx, kk (R142). -/
  | rnd (x : Nibble) (kk : Byte)
  /-- `Dxyn` DRW Vx, Vy, n (R192). -/
  | drw (x y n : Nibble)
  /-- `Ex9E` SKP Vx (R201). -/
  | skp (x : Nibble)
  /-- `ExA1` SKNP Vx (R202). -/
  | sknp (x : Nibble)
  /-- `Fx07` LD Vx, DT (R210). -/
  | ldVxDT (x : Nibble)
  /-- `Fx0A` LD Vx, K (R203). -/
  | ldVxK (x : Nibble)
  /-- `Fx15` LD DT, Vx (R211). -/
  | ldDTVx (x : Nibble)
  /-- `Fx18` LD ST, Vx (R212). -/
  | ldSTVx (x : Nibble)
  /-- `Fx1E` ADD I, Vx (R171). -/
  | addI (x : Nibble)
  /-- `Fx29` LD F, Vx (R172). -/
  | ldF (x : Nibble)
  /-- `Fx33` LD B, Vx (R173). -/
  | ldB (x : Nibble)
  /-- `Fx55` LD [I], Vx (R174). -/
  | storeRegs (x : Nibble)
  /-- `Fx65` LD Vx, [I] (R175). -/
  | loadRegs (x : Nibble)
  /-- `8xyN`, N unassigned: decodes to `raise IllegalInstruction(w)` (R87, R225). -/
  | illegal8 (x y n : Nibble)
  /-- `Exkk`, kk unassigned: decodes to `raise IllegalInstruction(w)` (R87, R225). -/
  | illegalE (x : Nibble) (kk : Byte)
  /-- `Fxkk`, kk unassigned: decodes to `raise IllegalInstruction(w)` (R87, R225). -/
  | illegalF (x : Nibble) (kk : Byte)
  deriving DecidableEq, Repr

end Sys2Proof
end

