-- ==== Sys2Proof/WellFormed.lean ====
section
/-! DEFINITION. Which terms of `Instr` stand for an instruction word of the spec. Every field is as wide
as its place in the word, so the only terms that stand for none are those whose free field would be the
secondary code of another row (spec/30_encoding.md R83, R87, R88). -/

namespace Sys2Proof

/-- The low bytes of the `0` family that are not SYS (R88). -/
def zeroCodes : List Byte := [0xE0, 0xEE]

/-- The assigned bottom nibbles of the `8` family (R83). -/
def aluCodes : List Nibble := [0x0, 0x1, 0x2, 0x3, 0x4, 0x5, 0x6, 0x7, 0xE]

/-- The assigned low bytes of the `E` family (R83). -/
def keyCodes : List Byte := [0x9E, 0xA1]

/-- The assigned low bytes of the `F` family (R83). -/
def miscCodes : List Byte := [0x07, 0x0A, 0x15, 0x18, 0x1E, 0x29, 0x33, 0x55, 0x65]

/-- The term stands for an instruction word: a SYS word is not CLS or RET (R88), an illegal word has an
unassigned secondary code (R87); every other term is well formed, whatever its fields. -/
def Instr.wellFormed : Instr → Bool
  | .sys nnn => !zeroCodes.contains (nnn.extractLsb' 0 8)
  | .illegal8 _ _ n => !aluCodes.contains n
  | .illegalE _ kk => !keyCodes.contains kk
  | .illegalF _ kk => !miscCodes.contains kk
  | .cls _ | .ret _ | .jp _ | .call _ | .seImm _ _ | .sneImm _ _ | .seReg _ _ _ | .ldImm _ _
  | .addImm _ _ | .ldReg _ _ | .orReg _ _ | .andReg _ _ | .xorReg _ _ | .addReg _ _ | .subReg _ _
  | .shrReg _ _ | .subnReg _ _ | .shlReg _ _ | .sneReg _ _ _ | .ldI _ | .jpV0 _ | .rnd _ _
  | .drw _ _ _ | .skp _ | .sknp _ | .ldVxDT _ | .ldVxK _ | .ldDTVx _ | .ldSTVx _ | .addI _
  | .ldF _ | .ldB _ | .storeRegs _ | .loadRegs _ => true

/-- The canonical form of R86: the bits the decoder ignores in CLS, RET, SE Vx,Vy and SNE Vx,Vy are 0.
An assembler emits only these; the machine runs the others too. -/
def Instr.canonical : Instr → Bool
  | .cls ign | .ret ign | .seReg _ _ ign | .sneReg _ _ ign => ign == 0
  | .sys _ | .jp _ | .call _ | .seImm _ _ | .sneImm _ _ | .ldImm _ _ | .addImm _ _ | .ldReg _ _
  | .orReg _ _ | .andReg _ _ | .xorReg _ _ | .addReg _ _ | .subReg _ _ | .shrReg _ _ | .subnReg _ _
  | .shlReg _ _ | .ldI _ | .jpV0 _ | .rnd _ _ | .drw _ _ _ | .skp _ | .sknp _ | .ldVxDT _ | .ldVxK _
  | .ldDTVx _ | .ldSTVx _ | .addI _ | .ldF _ | .ldB _ | .storeRegs _ | .loadRegs _
  | .illegal8 _ _ _ | .illegalE _ _ | .illegalF _ _ => true

end Sys2Proof
end

