-- ==== Sys2Proof/Decode.lean ====
section
/-! DEFINITION. The decoder and the encoder of the 16-bit instruction word: fields (spec/30_encoding.md R81),
the three formats, the decode procedure R83, the rows of R84, and the big-endian layout of the word in
memory (spec/20_memory.md R56). Every 16-bit word decodes; the words R87 leaves unassigned decode to
the constructors `illegal8`, `illegalE` and `illegalF`. -/

namespace Sys2Proof

/-- `op = w[15:12]`, R9. -/
def opField (w : Word) : Nibble := w.extractLsb' 12 4

/-- `x = w[11:8]`, R9. -/
def xField (w : Word) : Nibble := w.extractLsb' 8 4

/-- `y = w[7:4]`, R9. -/
def yField (w : Word) : Nibble := w.extractLsb' 4 4

/-- `n = w[3:0]`, R9. -/
def nField (w : Word) : Nibble := w.extractLsb' 0 4

/-- `kk = w[7:0]`, R9. -/
def kkField (w : Word) : Byte := w.extractLsb' 0 8

/-- `nnn = w[11:0]`, R9. -/
def nnnField (w : Word) : Imm12 := w.extractLsb' 0 12

/-- The word of format `NNN` (R81). -/
def wordNNN (op : Nibble) (nnn : Imm12) : Word := op ++ nnn

/-- The word of format `XKK` (R81). -/
def wordXKK (op x : Nibble) (kk : Byte) : Word := (op ++ x : Byte) ++ kk

/-- The word of format `XYN` (R81). -/
def wordXYN (op x y n : Nibble) : Word := (op ++ x : Byte) ++ (y ++ n : Byte)

/-- The `0` family of R83: secondary decode on the low byte, bits 11:8 not decoded. -/
def decodeZero (w : Word) : Instr :=
  match kkField w with
  | 0xE0#8 => .cls (xField w)
  | 0xEE#8 => .ret (xField w)
  | _ => .sys (nnnField w)

/-- The `8` family of R83: secondary decode on the bottom nibble. -/
def decodeAlu (w : Word) : Instr :=
  match nField w with
  | 0x0#4 => .ldReg (xField w) (yField w)
  | 0x1#4 => .orReg (xField w) (yField w)
  | 0x2#4 => .andReg (xField w) (yField w)
  | 0x3#4 => .xorReg (xField w) (yField w)
  | 0x4#4 => .addReg (xField w) (yField w)
  | 0x5#4 => .subReg (xField w) (yField w)
  | 0x6#4 => .shrReg (xField w) (yField w)
  | 0x7#4 => .subnReg (xField w) (yField w)
  | 0xE#4 => .shlReg (xField w) (yField w)
  | n => .illegal8 (xField w) (yField w) n

/-- The `E` family of R83: secondary decode on the low byte. -/
def decodeKey (w : Word) : Instr :=
  match kkField w with
  | 0x9E#8 => .skp (xField w)
  | 0xA1#8 => .sknp (xField w)
  | kk => .illegalE (xField w) kk

/-- The `F` family of R83: secondary decode on the low byte. -/
def decodeMisc (w : Word) : Instr :=
  match kkField w with
  | 0x07#8 => .ldVxDT (xField w)
  | 0x0A#8 => .ldVxK (xField w)
  | 0x15#8 => .ldDTVx (xField w)
  | 0x18#8 => .ldSTVx (xField w)
  | 0x1E#8 => .addI (xField w)
  | 0x29#8 => .ldF (xField w)
  | 0x33#8 => .ldB (xField w)
  | 0x55#8 => .storeRegs (xField w)
  | 0x65#8 => .loadRegs (xField w)
  | kk => .illegalF (xField w) kk

/-- The decode procedure R83, total on every 16-bit word. The last arm is `op = 0xF`: the sixteen values
of the top nibble are all covered, so the defensive default of R104 has no arm. -/
def decodeWord (w : Word) : Instr :=
  match opField w with
  | 0x0#4 => decodeZero w
  | 0x1#4 => .jp (nnnField w)
  | 0x2#4 => .call (nnnField w)
  | 0x3#4 => .seImm (xField w) (kkField w)
  | 0x4#4 => .sneImm (xField w) (kkField w)
  | 0x5#4 => .seReg (xField w) (yField w) (nField w)
  | 0x6#4 => .ldImm (xField w) (kkField w)
  | 0x7#4 => .addImm (xField w) (kkField w)
  | 0x8#4 => decodeAlu w
  | 0x9#4 => .sneReg (xField w) (yField w) (nField w)
  | 0xA#4 => .ldI (nnnField w)
  | 0xB#4 => .jpV0 (nnnField w)
  | 0xC#4 => .rnd (xField w) (kkField w)
  | 0xD#4 => .drw (xField w) (yField w) (nField w)
  | 0xE#4 => decodeKey w
  | _ => decodeMisc w

/-- The word of an instruction, from the patterns of R84 and R87. -/
def encode : Instr → Word
  | .sys nnn => wordNNN 0x0 nnn
  | .cls ign => wordXKK 0x0 ign 0xE0
  | .ret ign => wordXKK 0x0 ign 0xEE
  | .jp nnn => wordNNN 0x1 nnn
  | .call nnn => wordNNN 0x2 nnn
  | .seImm x kk => wordXKK 0x3 x kk
  | .sneImm x kk => wordXKK 0x4 x kk
  | .seReg x y ign => wordXYN 0x5 x y ign
  | .ldImm x kk => wordXKK 0x6 x kk
  | .addImm x kk => wordXKK 0x7 x kk
  | .ldReg x y => wordXYN 0x8 x y 0x0
  | .orReg x y => wordXYN 0x8 x y 0x1
  | .andReg x y => wordXYN 0x8 x y 0x2
  | .xorReg x y => wordXYN 0x8 x y 0x3
  | .addReg x y => wordXYN 0x8 x y 0x4
  | .subReg x y => wordXYN 0x8 x y 0x5
  | .shrReg x y => wordXYN 0x8 x y 0x6
  | .subnReg x y => wordXYN 0x8 x y 0x7
  | .shlReg x y => wordXYN 0x8 x y 0xE
  | .sneReg x y ign => wordXYN 0x9 x y ign
  | .ldI nnn => wordNNN 0xA nnn
  | .jpV0 nnn => wordNNN 0xB nnn
  | .rnd x kk => wordXKK 0xC x kk
  | .drw x y n => wordXYN 0xD x y n
  | .skp x => wordXKK 0xE x 0x9E
  | .sknp x => wordXKK 0xE x 0xA1
  | .ldVxDT x => wordXKK 0xF x 0x07
  | .ldVxK x => wordXKK 0xF x 0x0A
  | .ldDTVx x => wordXKK 0xF x 0x15
  | .ldSTVx x => wordXKK 0xF x 0x18
  | .addI x => wordXKK 0xF x 0x1E
  | .ldF x => wordXKK 0xF x 0x29
  | .ldB x => wordXKK 0xF x 0x33
  | .storeRegs x => wordXKK 0xF x 0x55
  | .loadRegs x => wordXKK 0xF x 0x65
  | .illegal8 x y n => wordXYN 0x8 x y n
  | .illegalE x kk => wordXKK 0xE x kk
  | .illegalF x kk => wordXKK 0xF x kk

/-- The byte of a word that lies at the lower address: big-endian, R56. -/
def highByte (w : Word) : Byte := w.extractLsb' 8 8

/-- The byte of a word that lies at the higher address: big-endian, R56. -/
def lowByte (w : Word) : Byte := w.extractLsb' 0 8

/-- The word of two bytes in the order of their addresses: `MemRead(a, 2) = mem[a] ++ mem[a+1]`, R56. -/
def wordOfBytes (hi lo : Byte) : Word := hi ++ lo

/-- The bytes of an instruction as memory holds them, lowest address first. -/
def encodeBytes (i : Instr) : List Byte := [highByte (encode i), lowByte (encode i)]

/-- Why bytes are no instruction: fewer than the two bytes every instruction has (R80). -/
inductive DecodeReject where
  | fewerThanTwoBytes
  deriving DecidableEq, Repr

/-- Decodes the first instruction of a sequence of bytes and gives the bytes after it: total on any
bytes, refusing by name. -/
def decodeBytes : List Byte → Except DecodeReject (Instr × List Byte)
  | hi :: lo :: rest => .ok (decodeWord (wordOfBytes hi lo), rest)
  | [_] => .error .fewerThanTwoBytes
  | [] => .error .fewerThanTwoBytes

/-- The instruction the decoder reads from the bits `w` of a row of spec/opcode_table.json. Every
instruction is one word of 16 bits (R80); the bits above `nbits` are 0. -/
def decodeTableWord (nbits w : Nat) : Option Instr :=
  let word : Word := BitVec.ofNat 16 (w % 2 ^ nbits)
  match decodeBytes [highByte word, lowByte word] with
  | .ok (i, _) => some i
  | .error _ => none

/-- A row of the opcode map R84: a word is of the row when `(w AND mask) = pattern`, and where two rows
match, the row whose mask has more 1 bits (`priority`) wins. -/
structure OpcodeRow where
  mask : Word
  pattern : Word
  priority : Nat
  deriving DecidableEq, Repr

/-- `(w AND mask) = match`, R84. -/
def rowMatches (r : OpcodeRow) (w : Word) : Bool := (w &&& r.mask) == r.pattern

/-- The mask, match and priority that R84 and opcode_table.json give an instruction. -/
def opcodeRow : Instr → OpcodeRow
  | .sys _ => ⟨0xF000, 0x0000, 4⟩
  | .cls _ => ⟨0xF0FF, 0x00E0, 12⟩
  | .ret _ => ⟨0xF0FF, 0x00EE, 12⟩
  | .jp _ => ⟨0xF000, 0x1000, 4⟩
  | .call _ => ⟨0xF000, 0x2000, 4⟩
  | .seImm _ _ => ⟨0xF000, 0x3000, 4⟩
  | .sneImm _ _ => ⟨0xF000, 0x4000, 4⟩
  | .seReg _ _ _ => ⟨0xF000, 0x5000, 4⟩
  | .ldImm _ _ => ⟨0xF000, 0x6000, 4⟩
  | .addImm _ _ => ⟨0xF000, 0x7000, 4⟩
  | .ldReg _ _ => ⟨0xF00F, 0x8000, 8⟩
  | .orReg _ _ => ⟨0xF00F, 0x8001, 8⟩
  | .andReg _ _ => ⟨0xF00F, 0x8002, 8⟩
  | .xorReg _ _ => ⟨0xF00F, 0x8003, 8⟩
  | .addReg _ _ => ⟨0xF00F, 0x8004, 8⟩
  | .subReg _ _ => ⟨0xF00F, 0x8005, 8⟩
  | .shrReg _ _ => ⟨0xF00F, 0x8006, 8⟩
  | .subnReg _ _ => ⟨0xF00F, 0x8007, 8⟩
  | .shlReg _ _ => ⟨0xF00F, 0x800E, 8⟩
  | .sneReg _ _ _ => ⟨0xF000, 0x9000, 4⟩
  | .ldI _ => ⟨0xF000, 0xA000, 4⟩
  | .jpV0 _ => ⟨0xF000, 0xB000, 4⟩
  | .rnd _ _ => ⟨0xF000, 0xC000, 4⟩
  | .drw _ _ _ => ⟨0xF000, 0xD000, 4⟩
  | .skp _ => ⟨0xF0FF, 0xE09E, 12⟩
  | .sknp _ => ⟨0xF0FF, 0xE0A1, 12⟩
  | .ldVxDT _ => ⟨0xF0FF, 0xF007, 12⟩
  | .ldVxK _ => ⟨0xF0FF, 0xF00A, 12⟩
  | .ldDTVx _ => ⟨0xF0FF, 0xF015, 12⟩
  | .ldSTVx _ => ⟨0xF0FF, 0xF018, 12⟩
  | .addI _ => ⟨0xF0FF, 0xF01E, 12⟩
  | .ldF _ => ⟨0xF0FF, 0xF029, 12⟩
  | .ldB _ => ⟨0xF0FF, 0xF033, 12⟩
  | .storeRegs _ => ⟨0xF0FF, 0xF055, 12⟩
  | .loadRegs _ => ⟨0xF0FF, 0xF065, 12⟩
  | .illegal8 _ _ _ => ⟨0xF000, 0x8000, 4⟩
  | .illegalE _ _ => ⟨0xF000, 0xE000, 4⟩
  | .illegalF _ _ => ⟨0xF000, 0xF000, 4⟩

/-- The rows of the opcode map R84 and its three fallback rows (R87), in the table's order. -/
def opcodeRows : List OpcodeRow :=
  [⟨0xF000, 0x0000, 4⟩, ⟨0xF0FF, 0x00E0, 12⟩, ⟨0xF0FF, 0x00EE, 12⟩, ⟨0xF000, 0x1000, 4⟩,
   ⟨0xF000, 0x2000, 4⟩, ⟨0xF000, 0x3000, 4⟩, ⟨0xF000, 0x4000, 4⟩, ⟨0xF000, 0x5000, 4⟩,
   ⟨0xF000, 0x6000, 4⟩, ⟨0xF000, 0x7000, 4⟩] ++
  [⟨0xF00F, 0x8000, 8⟩, ⟨0xF00F, 0x8001, 8⟩, ⟨0xF00F, 0x8002, 8⟩, ⟨0xF00F, 0x8003, 8⟩,
   ⟨0xF00F, 0x8004, 8⟩, ⟨0xF00F, 0x8005, 8⟩, ⟨0xF00F, 0x8006, 8⟩, ⟨0xF00F, 0x8007, 8⟩,
   ⟨0xF00F, 0x800E, 8⟩] ++
  [⟨0xF000, 0x9000, 4⟩, ⟨0xF000, 0xA000, 4⟩, ⟨0xF000, 0xB000, 4⟩, ⟨0xF000, 0xC000, 4⟩,
   ⟨0xF000, 0xD000, 4⟩, ⟨0xF0FF, 0xE09E, 12⟩, ⟨0xF0FF, 0xE0A1, 12⟩] ++
  [⟨0xF0FF, 0xF007, 12⟩, ⟨0xF0FF, 0xF00A, 12⟩, ⟨0xF0FF, 0xF015, 12⟩, ⟨0xF0FF, 0xF018, 12⟩,
   ⟨0xF0FF, 0xF01E, 12⟩, ⟨0xF0FF, 0xF029, 12⟩, ⟨0xF0FF, 0xF033, 12⟩, ⟨0xF0FF, 0xF055, 12⟩,
   ⟨0xF0FF, 0xF065, 12⟩] ++
  [⟨0xF000, 0x8000, 4⟩, ⟨0xF000, 0xE000, 4⟩, ⟨0xF000, 0xF000, 4⟩]

end Sys2Proof
end

