-- ==== Sys2Proof/Config.lean ====
section
/-! DEFINITION. What is fixed for the life of a machine: the sizes of spec/00_scope.md R5, the
parameters of R6 with their defaults, and the one free input of the machine, the random byte. -/

namespace Sys2Proof

/-! ## The fixed sizes of R5, one named constant each

Definitions compute with them. The types of Word.lean and of `State` spell the same sizes as numerals, which
Lean's arithmetic reads in a type; `State.sizes_are_those_of_R5` (Laws/Sizes.lean) proves that they agree. -/

/-- `MEM_SIZE`: the bytes of main memory. -/
@[simp] def memSize : Nat := 4096

/-- The highest address that exists, 0xFFF (R51). -/
def lastAddr : Nat := 0xFFF

/-- `NUM_REGS`: the general registers. -/
@[simp] def numRegs : Nat := 16

/-- `PC_WIDTH`: the bits of `pc`. -/
@[simp] def pcWidth : Nat := 16

/-- `I_WIDTH`: the bits of `I`. -/
@[simp] def iWidth : Nat := 16

/-- `STACK_DEPTH`: the entries of the call stack (16, not 8: spec/90_conflicts.md C1). -/
@[simp] def stackDepth : Nat := 16

/-- `TIMER_WIDTH`: the bits of `DT` and of `ST`. -/
@[simp] def timerWidth : Nat := 8

/-- `DISPLAY_W`: the columns of the display. -/
@[simp] def displayW : Nat := 64

/-- `DISPLAY_H`: the rows of the display. -/
@[simp] def displayH : Nat := 32

/-- `NUM_KEYS`: the keyboard cells. -/
@[simp] def numKeys : Nat := 16

/-- `FONT_BASE`: the address of the font table. -/
@[simp] def fontBase : Nat := 0x000

/-- `FONT_SIZE`: the bytes of the font table. -/
@[simp] def fontSize : Nat := 80

/-- `PROGRAM_BASE`: the reset vector and the address `load` writes from. -/
def programBase : Word := 0x200

/-- `MAX_PROGRAM_LEN`: the bytes from `PROGRAM_BASE` to the end of memory. -/
@[simp] def maxProgramLen : Nat := 0xE00

/-- `INSTR_BYTES`: the bytes of an instruction. -/
@[simp] def instrBytes : Nat := 2

/-- The implementation parameters of R6 that the model takes as arguments. -/
structure Config where
  /-- `FONT`: the bytes at 0x000..0x04F after reset (R33). -/
  font : Vector Byte 80
  /-- `SHL_FLAG_RAW`: `8xyE` writes 0x00/0x80 (true) or 0/1 (false) to `V[0xF]` (R158). -/
  shlFlagRaw : Bool
  /-- `SHIFT_SOURCE_VY`: the shifts shift `V[y]` into `V[x]` (true) or `V[x]` in place (false) (R156, R158). -/
  shiftSourceVy : Bool
  /-- `LDST_INCREMENT_I`: `Fx55`/`Fx65` end with `I <- I + x + 1` (true) or leave `I` (false) (R174, R175). -/
  ldstIncrementI : Bool
  deriving DecidableEq, Repr

/-- The default `FONT`: the table of spec/10_state.md R33, one glyph of five bytes a line. -/
def Config.defaultFont : Vector Byte 80 := #v[
  0xF0, 0x90, 0x90, 0x90, 0xF0,
  0x20, 0x60, 0x20, 0x20, 0x70,
  0xF0, 0x10, 0xF0, 0x80, 0xF0,
  0xF0, 0x10, 0xF0, 0x10, 0xF0,
  0x90, 0x90, 0xF0, 0x10, 0x10,
  0xF0, 0x80, 0xF0, 0x10, 0xF0,
  0xF0, 0x80, 0xF0, 0x90, 0xF0,
  0xF0, 0x10, 0x20, 0x40, 0x40,
  0xF0, 0x90, 0xF0, 0x90, 0xF0,
  0xF0, 0x90, 0xF0, 0x10, 0xF0,
  0xF0, 0x90, 0xF0, 0x90, 0x90,
  0xE0, 0x90, 0xE0, 0x90, 0xE0,
  0xF0, 0x80, 0x80, 0x80, 0xF0,
  0xE0, 0x90, 0x90, 0x90, 0xE0,
  0xF0, 0x80, 0xF0, 0x80, 0xF0,
  0xF0, 0x80, 0xF0, 0x80, 0x80]

/-- The defaults of R6. -/
def Config.default : Config where
  font := Config.defaultFont
  shlFlagRaw := true
  shiftSourceVy := false
  ldstIncrementI := true

/-- The random byte `rnd` that `Cxkk` draws: a free value with no law (R6, R142), one for each draw.
It has no body, so nothing can be proved of its value. DESIGN CHOICE, log entry 2. -/
opaque Config.rnd : Nat → Byte

end Sys2Proof
end

