-- ==== Sys2Proof/Machine/State.lean ====
section
/-! DEFINITION. The state of the machine as plain data (spec/10_state.md R20 to R37), the reasons a step
can stop, and the state after reset (R34). -/

namespace Sys2Proof.Machine

/-- The causes of the spec's faults, spec/60_exceptions.md R221. -/
inductive FaultCause where
  /-- Code 0: no fault. -/
  | none
  /-- Code 1, `ConfigFault`: raised by the host event `load` (R230). -/
  | config
  /-- Code 2, `AddressFault`: the fetch, `Dxyn`, `Fx33`, `Fx55`, `Fx65` (R222). -/
  | address
  /-- Code 3, `StackOverflow`: `2nnn` with `sp = 16` (R223). -/
  | stackOverflow
  /-- Code 4, `StackUnderflow`: `00EE` with `sp = 0` (R224). -/
  | stackUnderflow
  /-- Code 5, `IllegalInstruction`: an unassigned word (R225). -/
  | illegalInstruction
  /-- Code 6, `KeyIndexFault`: `Ex9E`, `ExA1` with `V[x] > 0xF` (R226). -/
  | keyIndex
  deriving DecidableEq, Repr

/-- What `raise <Fault>(info)` carries (R8): the cause and the value for `fault_info`. -/
structure Trap where
  cause : FaultCause
  info : Word
  deriving DecidableEq, Repr

/-- The output events of a step (R100, R238, R239). -/
structure StepOutput where
  /-- `beep` was emitted. -/
  beep : Bool := false
  /-- `diag(w)` was emitted, with its word. -/
  diag : Option Word := none
  deriving DecidableEq, Repr

/-- The state. The fields down to `key` are the elements of spec/10_state.md R34 under the spec's own
names; the last three are the model's own (log entries 1 to 3). -/
structure State where
  /-- The general registers; `V[0xF]` is the flag register (R20, R21). -/
  V : Vector Byte 16
  /-- The program counter (R22). -/
  pc : Word
  /-- The index register (R23). -/
  I : Word
  /-- The stack pointer, 0..16: how many return addresses are held (R24). -/
  sp : Fin 17
  /-- The return addresses (R24). -/
  stack : Vector Word 16
  /-- The delay timer (R25). -/
  DT : Byte
  /-- The sound timer (R26). -/
  ST : Byte
  /-- `run`: a step executes an instruction only while it is set (R27). -/
  run : Bool
  /-- The fault record (R28): the cause. -/
  faultCause : FaultCause
  /-- The fault record (R28): the address of the faulting instruction. -/
  faultPc : Word
  /-- The fault record (R28): the cause's detail. -/
  faultInfo : Word
  /-- Main memory (R29): the cells that differ from what an unlisted address reads as, addresses rising. -/
  mem : List Host.Cell
  /-- The framebuffer (R30). -/
  fb : Screen
  /-- The redraw flag (R31). -/
  redraw : Bool
  /-- The keyboard cells, true = pressed (R32). -/
  key : Vector Bool 16
  /-- The model's own: the configuration, the same for the life of the machine (R6, R35(c)). -/
  cfg : Config
  /-- The model's own: how many random bytes have been drawn (R142, R35(a)). -/
  draws : Nat
  /-- The model's own: the events the last step emitted (R35(b)). -/
  out : StepOutput
  deriving DecidableEq, Repr

/-- Reasons for a step to stop outside the state. THERE IS NONE: every fault of the spec is an effect on
the machine's own state (`run`, the fault record, `pc`: spec/60_exceptions.md R227), which a next state
shows, and the machine goes on taking (empty) steps after it (spec/40_step_cycle.md R108). Nothing
raises a `Fault`, so the type is neither safe nor unsafe anywhere (log entry 4). -/
inductive Fault where
  deriving DecidableEq, Repr

/-- Reasons for an instruction to have no meaning. -/
inductive Refusal where
  /-- Raised only by an arm of `exec` whose instruction has no meaning yet; no arm of this model is such.
  Safe: the run stops there. -/
  | notModelled (mnemonic : String)
  deriving DecidableEq, Repr

/-- What running an instruction or a step answers. -/
abbrev Outcome := Host.Outcome State Fault Refusal

/-- The state at power-on, for a configuration (R34, R261): memory lists nothing, so it reads as the font
table below 0x050 and zero above; the keys are released. -/
def State.powerOn (cfg : Config) : State where
  V := Vector.replicate numRegs 0
  pc := programBase
  I := 0
  sp := 0
  stack := Vector.replicate stackDepth 0
  DT := 0
  ST := 0
  run := true
  faultCause := .none
  faultPc := 0
  faultInfo := 0
  mem := []
  fb := Vector.replicate displayH 0
  redraw := true
  key := Vector.replicate numKeys false
  cfg := cfg
  draws := 0
  out := {}

/-- The machine right after reset, with the default configuration of R6 (R34, R260, R261). -/
def State.reset : State := State.powerOn Config.default

end Sys2Proof.Machine
end

