-- ==== Sys2Proof/Machine/Ops.lean ====
section
/-! DEFINITION. The named operations over registers, memory, stack, screen and timers, taking a fault, and
the phases of a step around the dispatch (spec/00_scope.md R8, spec/20_memory.md, spec/40_step_cycle.md,
spec/60_exceptions.md R227). -/

namespace Sys2Proof.Machine

/-! ## Field updates, one operation each -/

/-- `I <- v`. -/
def State.setI (s : State) (v : Word) : State := { s with I := v }

/-- `pc <- target` (R8). -/
def State.setPc (s : State) (target : Word) : State := { s with pc := target }

/-- `DT <- v`. -/
def State.setDT (s : State) (v : Byte) : State := { s with DT := v }

/-- `ST <- v`. -/
def State.setST (s : State) (v : Byte) : State := { s with ST := v }

/-- The memory's cells replaced. -/
def State.setMem (s : State) (m : List Host.Cell) : State := { s with mem := m }

/-- The framebuffer replaced and `redraw <- 1`: the only way an instruction writes either (R30, R31). -/
def State.setScreen (s : State) (f : Screen) : State := { s with fb := f, redraw := true }

/-- The call stack and its pointer replaced. -/
def State.setStack (s : State) (st : Vector Word 16) (p : Fin 17) : State :=
  { s with stack := st, sp := p }

/-- The events of the step replaced. -/
def State.setOut (s : State) (o : StepOutput) : State := { s with out := o }

/-- One random byte has been drawn. -/
def State.nextDraw (s : State) : State := { s with draws := s.draws + 1 }

/-! ## General registers (R20) -/

/-- `V[i]`, R8: every 4-bit index names a register. -/
def State.getV (s : State) (i : Nibble) : Byte := s.V[i.toNat]'i.isLt

/-- `V[i] <- v`, R8. -/
def State.setV (s : State) (i : Nibble) (v : Byte) : State := { s with V := s.V.set i.toNat v i.isLt }

/-- `V[0xF] <- v`: the flag register (R21). -/
def State.setFlag (s : State) (v : Byte) : State := s.setV 0xF v

/-- `V[i] <- bytes[0]`, `V[i+1] <- bytes[1]`, ... in ascending order, for the loop of `Fx65` (R175). -/
def fillRegs (V : Vector Byte 16) (i : Nat) : List Byte → Vector Byte 16
  | [] => V
  | b :: bs => fillRegs (V.setIfInBounds i b) (i + 1) bs

/-- The registers from `V[0]` on overwritten by `bytes`. -/
def State.loadV (s : State) (bytes : List Byte) : State := { s with V := fillRegs s.V 0 bytes }

/-- `V[0]`, ..., `V[x]`, for the loop of `Fx55` (R174). -/
def State.regsUpTo (s : State) (x : Nibble) : List Byte := s.V.toList.take (x.toNat + 1)

/-! ## Main memory (R29, R50 to R61): a list of cells in one canonical form -/

/-- What an address that no cell lists reads as: the contents after reset (R29). -/
def Memory.unlisted (font : Vector Byte 80) (a : Nat) : Byte := font[a]?.getD 0

/-- The byte a list of cells holds for an address, if it lists it. -/
def Memory.find : List Host.Cell → Nat → Option Byte
  | [], _ => none
  | (k, v) :: rest, a => if k = a then some v else Memory.find rest a

/-- The byte at an address. -/
def Memory.read (font : Vector Byte 80) (m : List Host.Cell) (a : Nat) : Byte :=
  (Memory.find m a).getD (Memory.unlisted font a)

/-- The cell list with the cell of one address replaced, or dropped for `none`; addresses stay rising. -/
def Memory.put (a : Nat) (v : Option Byte) : List Host.Cell → List Host.Cell
  | [] => (v.map fun b => (a, b)).toList
  | (k, w) :: rest =>
    if k < a then (k, w) :: Memory.put a v rest
    else if k = a then (v.map fun b => (a, b)).toList ++ rest
    else (v.map fun b => (a, b)).toList ++ (k, w) :: rest

/-- `mem[a] <- v`; writing what an unlisted address reads as drops the cell. -/
def Memory.write (font : Vector Byte 80) (m : List Host.Cell) (a : Nat) (v : Byte) : List Host.Cell :=
  Memory.put a (if v = Memory.unlisted font a then none else some v) m

/-- Bytes written one after another from an address upwards (R57, R59). -/
def Memory.writeAll (font : Vector Byte 80) (m : List Host.Cell) (a : Nat) : List Byte → List Host.Cell
  | [] => m
  | b :: bs => Memory.writeAll font (Memory.write font m a b) (a + 1) bs

/-- The canonical form: addresses exist and strictly rise, and no cell holds what an unlisted address
reads as. -/
def Memory.wf (font : Vector Byte 80) : List Host.Cell → Bool
  | [] => true
  | (k, v) :: rest =>
    decide (k ≤ lastAddr) && !(v == Memory.unlisted font k) && rest.all (fun c => decide (k < c.1))
      && Memory.wf font rest

/-- `mem[a]` for an address that exists; callers check the range first (R53). -/
def State.peek (s : State) (a : Nat) : Byte := Memory.read s.cfg.font s.mem a

/-- The range check of `MemRead` and `MemWrite` (R53 to R56, R222): an access of `len` bytes from `base`,
with sums in the natural numbers (R55), faults when its last address exceeds 0xFFF. The detail is the
least address out of range, `max(base, 0x1000)`. An access of no byte never faults (R61). -/
def rangeFault (base : Word) (len : Nat) : Option Trap :=
  if 0 < len ∧ lastAddr < base.toNat + (len - 1) then
    some ⟨.address, BitVec.ofNat 16 (max base.toNat (lastAddr + 1))⟩
  else none

/-- The `len` bytes from `base` upwards. -/
def State.bytesAt (s : State) (base : Word) (len : Nat) : List Byte :=
  (List.range len).map fun j => s.peek (base.toNat + j)

/-- `bytes` stored from `base` upwards (R54, R57). -/
def State.storeAt (s : State) (base : Word) (bytes : List Byte) : State :=
  s.setMem (Memory.writeAll s.cfg.font s.mem base.toNat bytes)

/-! ## The call stack (R24) -/

/-- `stack[sp] <- w; sp <- sp + 1`; nothing when the stack is full (R123). -/
def State.push (s : State) (w : Word) : Option State :=
  if h : s.sp.val < stackDepth then some (s.setStack (s.stack.set s.sp.val w h) ⟨s.sp.val + 1, Nat.succ_lt_succ h⟩)
  else none

/-- `sp <- sp - 1` and the value `stack[sp]` it then names; nothing when the stack is empty (R121). -/
def State.pop (s : State) : Option (Word × State) :=
  if h : 0 < s.sp.val then
    some (s.stack[s.sp.val - 1]'(by omega), s.setStack s.stack ⟨s.sp.val - 1, by omega⟩)
  else none

/-! ## Taking a fault (R227, R107): the one entry of every fault -/

/-- Fault entry for the instruction at `pc0`: the run stops, the fault record is written, `pc` is `pc0`
again, no event is emitted, and everything else is as it was (R227). -/
def State.raiseAt (s : State) (pc0 : Word) (t : Trap) : State :=
  { s with run := false, faultCause := t.cause, faultPc := pc0, faultInfo := t.info, pc := pc0, out := {} }

/-- Fault entry from the dispatch phase, where `pc = pc0 + 2` (R102). -/
def State.raise (s : State) (t : Trap) : State := s.raiseAt (s.pc - 2) t

/-- The code of a cause, 3 bits (R221). -/
def faultCode : FaultCause → BitVec 3
  | .none => 0
  | .config => 1
  | .address => 2
  | .stackOverflow => 3
  | .stackUnderflow => 4
  | .illegalInstruction => 5
  | .keyIndex => 6

/-! ## Program counter (R22) -/

/-- The skip: a further `pc <- pc + 2` (R13). -/
def State.skip (s : State) : State := s.setPc (s.pc + 2)

/-- `pc <- pc + 2` when the condition holds (R130 to R133, R201, R202). -/
def State.skipIf (s : State) (c : Bool) : State := if c then s.skip else s

/-- `pc <- pc - 2`: back to the instruction itself (R203). -/
def State.rewind (s : State) : State := s.setPc (s.pc - 2)

/-! ## Events (R238, R239) -/

/-- `emit diag(w)`. -/
def State.emitDiag (s : State) (w : Word) : State := s.setOut { s.out with diag := some w }

/-- `emit beep`. -/
def State.emitBeep (s : State) : State := s.setOut { s.out with beep := true }

/-! ## The phases of a step (R100) -/

/-- A timer's decrement: one less while nonzero (R105). -/
def countDown (c : Byte) : Byte := if c = 0 then 0 else c - 1

/-- The timer tick (R105): `beep` exactly when it takes `ST` from 1 to 0. -/
def State.tick (s : State) : State :=
  let t := (s.setDT (countDown s.DT)).setST (countDown s.ST)
  if s.ST = 1 then t.emitBeep else t

/-- Phase 1, the fetch (R101): `MemRead(pc, 2)`, big-endian. -/
def State.fetch (s : State) : Except Trap Word :=
  match rangeFault s.pc instrBytes with
  | some t => .error t
  | none => .ok (wordOfBytes (s.peek s.pc.toNat) (s.peek (s.pc.toNat + 1)))

/-- Phase 2, the advance (R102), in a step that has emitted nothing so far. -/
def State.advance (s : State) : State := (s.setOut {}).setPc (s.pc + 2)

/-- Phase 4 after a dispatch that raised no fault (R105); a dispatch that raised one has cleared `run`, and
its step ends there (R107). -/
def State.finish (s : State) : State := if s.run then s.tick else s

/-- One step around a dispatch `ex` (R100, R107, R108): while `run` is clear nothing changes and nothing is
emitted; a fetch out of range raises its fault; else advance, dispatch and tick. -/
def stepWith (ex : Instr → State → Outcome) (s : State) : Outcome :=
  if s.run then
    match s.fetch with
    | .error t => .next (s.raiseAt s.pc t)
    | .ok w =>
      match ex (decodeWord w) s.advance with
      | .next t => .next t.finish
      | .fault r => .fault r
      | .refused r => .refused r
  else .next (s.setOut {})

/-- The two bytes of `w` stored where the next step fetches, with `run` set; a `pc` from which no fetch
succeeds is first put at the reset vector. -/
def State.placeWord (s : State) (w : Word) : State :=
  let t := if (rangeFault s.pc instrBytes).isSome then s.setPc programBase else s
  { t.storeAt t.pc [highByte w, lowByte w] with run := true }

end Sys2Proof.Machine
end

