-- ==== Sys2Proof/Machine/Flags.lean ====
section
/-! DEFINITION. The values written to the flag register `V[0xF]` (spec/10_state.md R21, spec/44_alu.md R154 to
R158, spec/46_display.md R192). -/

namespace Sys2Proof.Machine

/-- A flag that is exactly 0 or 1. -/
def flagBit (b : Bool) : Byte := if b then 1 else 0

/-- Carry of `a + b`: 1 iff the unsigned sum exceeds 255 (R154). -/
def carryFlag (a b : Byte) : Byte := flagBit (decide (255 < a.toNat + b.toNat))

/-- NOT borrow of `a - b`: 0 iff `a < b` (R155, R157). -/
def notBorrowFlag (a b : Byte) : Byte := flagBit (!decide (a.toNat < b.toNat))

/-- The bit a right shift shifts out: `s AND 0x01` (R156). -/
def shrFlag (v : Byte) : Byte := v &&& 0x01

/-- The flag of a left shift: `s AND 0x80` with `SHL_FLAG_RAW`, else `s >> 7` (R158). -/
def shlFlag (raw : Bool) (v : Byte) : Byte := if raw then v &&& 0x80 else v >>> 7

/-- `V[x] <- result`, then `V[0xF] <- flag`: the flag is written last, so it survives `x = 0xF` (R159). -/
def State.setResultAndFlag (s : State) (x : Nibble) (result flag : Byte) : State :=
  (s.setV x result).setFlag flag

end Sys2Proof.Machine
end

