-- ==== Sys2Proof/Machine/Operands.lean ====
section
/-! DEFINITION. The operand forms of the instructions (spec/30_encoding.md R82): zero-extended immediates and
registers, the shift source, the decimal digits, the key index and the key scan. -/

namespace Sys2Proof.Machine

/-- `zext_16(nnn)`, R82. -/
def addrOperand (nnn : Imm12) : Word := nnn.setWidth 16

/-- `zext_16(V[x])`, R82. -/
def State.wideV (s : State) (x : Nibble) : Word := (s.getV x).setWidth 16

/-- The source of a shift: `V[y]` with `SHIFT_SOURCE_VY`, else `V[x]` (R156, R158). -/
def State.shiftSource (s : State) (x y : Nibble) : Byte :=
  if s.cfg.shiftSourceVy then s.getV y else s.getV x

/-- Hundreds, tens and ones of a byte (R173). -/
def decimalDigits (v : Byte) : List Byte := [v / 100, (v / 10) % 10, v % 10]

/-- The address of the glyph a byte names, `zext_16(v) * 5`, the byte not masked (R172). -/
def glyphAddr (v : Byte) : Word := v.setWidth 16 * 5

/-- `I` after a transfer of `x + 1` registers (R174, R175). -/
def State.indexAfterTransfer (s : State) (x : Nibble) : Word :=
  if s.cfg.ldstIncrementI then s.I + x.setWidth 16 + 1 else s.I

/-- The key a byte names, or the fault when it names none (R201, R202, R226). -/
def keyOperand (v : Byte) : Except Trap Nibble :=
  if numKeys ≤ v.toNat then .error ⟨.keyIndex, v.setWidth 16⟩ else .ok (v.setWidth 4)

/-- `is_pressed(i)`, R200. -/
def State.pressed (s : State) (i : Nibble) : Bool := s.key[i.toNat]'i.isLt

/-- `first_pressed()`, R200: all 16 cells in ascending order, the last match kept. -/
def State.scanKeys (s : State) : Option Nibble :=
  (List.range numKeys).foldl
    (fun k i => if s.pressed (BitVec.ofNat 4 i) then some (BitVec.ofNat 4 i) else k) none

end Sys2Proof.Machine
end

