-- ==== Sys2Proof/Machine/Alu.lean ====
section
/-! DEFINITION. The register-register family, spec/44_alu.md R150 to R160: operands are read first, the result
is written to `V[x]`, the flag last (R159); all arithmetic wraps modulo 256 (R160). -/

namespace Sys2Proof.Machine

/-- LD Vx, Vy, R150. -/
def execLdReg (x y : Nibble) (s : State) : Outcome := .next (s.setV x (s.getV y))

/-- OR Vx, Vy, R151; `V[0xF]` is not a flag here. -/
def execOrReg (x y : Nibble) (s : State) : Outcome := .next (s.setV x (s.getV x ||| s.getV y))

/-- AND Vx, Vy, R152. -/
def execAndReg (x y : Nibble) (s : State) : Outcome := .next (s.setV x (s.getV x &&& s.getV y))

/-- XOR Vx, Vy, R153. -/
def execXorReg (x y : Nibble) (s : State) : Outcome := .next (s.setV x (s.getV x ^^^ s.getV y))

/-- ADD Vx, Vy, R154. -/
def execAddReg (x y : Nibble) (s : State) : Outcome :=
  .next (s.setResultAndFlag x (s.getV x + s.getV y) (carryFlag (s.getV x) (s.getV y)))

/-- SUB Vx, Vy, R155: minuend `V[x]`. -/
def execSubReg (x y : Nibble) (s : State) : Outcome :=
  .next (s.setResultAndFlag x (s.getV x - s.getV y) (notBorrowFlag (s.getV x) (s.getV y)))

/-- SHR Vx {, Vy}, R156. -/
def execShrReg (x y : Nibble) (s : State) : Outcome :=
  .next (s.setResultAndFlag x (s.shiftSource x y >>> 1) (shrFlag (s.shiftSource x y)))

/-- SUBN Vx, Vy, R157: minuend `V[y]`. -/
def execSubnReg (x y : Nibble) (s : State) : Outcome :=
  .next (s.setResultAndFlag x (s.getV y - s.getV x) (notBorrowFlag (s.getV y) (s.getV x)))

/-- SHL Vx {, Vy}, R158. -/
def execShlReg (x y : Nibble) (s : State) : Outcome :=
  .next (s.setResultAndFlag x (s.shiftSource x y <<< 1) (shlFlag s.cfg.shlFlagRaw (s.shiftSource x y)))

end Sys2Proof.Machine
end

