-- ==== Sys2Proof/Machine/ConstRandom.lean ====
section
/-! DEFINITION. Immediates and random, spec/43_const_random.md R140 to R142. -/

namespace Sys2Proof.Machine

/-- LD Vx, kk, R140. -/
def execLdImm (x : Nibble) (kk : Byte) (s : State) : Outcome := .next (s.setV x kk)

/-- ADD Vx, kk, R141: modulo 256, no flag. -/
def execAddImm (x : Nibble) (kk : Byte) (s : State) : Outcome := .next (s.setV x (s.getV x + kk))

/-- `V[x] <- r AND kk` for a drawn byte `r`, which is then used up (R142). -/
def State.drawInto (s : State) (r : Byte) (x : Nibble) (kk : Byte) : State :=
  (s.setV x (r &&& kk)).nextDraw

/-- RND Vx, kk, R142: the step's input `rnd` is the free value of log entry 2. -/
def execRnd (x : Nibble) (kk : Byte) (s : State) : Outcome :=
  .next (s.drawInto (Config.rnd s.draws) x kk)

end Sys2Proof.Machine
end

