-- ==== Sys2Proof/Machine/Display.lean ====
section
/-! DEFINITION. The framebuffer and the pixel XOR-plotter, spec/46_display.md R190 to R192. A cell is named by
its column 0..63 and row 0..31; its index is `column + 64·row` (spec/10_state.md R30). -/

namespace Sys2Proof.Machine

/-- The cell in a column and a row, `fb[column + 64·row]`; off outside the screen (R30). -/
def cellAt (f : Screen) (column row : Nat) : Bool := (f[row]?.getD 0).getLsbD column

/-- A cell by its index, `fb[c]` (R30). -/
def cellByIndex (f : Screen) (c : Nat) : Bool := cellAt f (c % displayW) (c / displayW)

/-- The framebuffer with one cell XORed with 1 (R190). -/
def flipCell (f : Screen) (column row : Nat) : Screen :=
  f.setIfInBounds row (f[row]?.getD 0 ^^^ BitVec.twoPow 64 column)

/-- A plot under way: the framebuffer and whether a collision has been recorded. -/
structure Plot where
  screen : Screen
  collision : Bool
  deriving DecidableEq, Repr

/-- A set sprite pixel on a cell: a collision if the cell was on, and the cell flipped (R190). -/
def Plot.pixel (p : Plot) (column row : Nat) : Plot :=
  ⟨flipCell p.screen column row, p.collision || cellAt p.screen column row⟩

/-- The column a pixel lands on: `(x0 + b) mod 64` (R190). -/
def plotColumn (x0 : Byte) (b : Nat) : Nat := (x0.toNat + b) % displayW

/-- The row a sprite row lands on: `(y0 + r) mod 32` (R190). -/
def plotRow (y0 : Byte) (r : Nat) : Nat := (y0.toNat + r) % displayH

/-- Whether pixel offset `b` from the left of a sprite byte is set: bit `7 - b`, mask `0x80 >> b` (R190). -/
def pixelSet (bits : Byte) (b : Nat) : Bool := bits.getLsbD (7 - b)

/-- The pixels of one sprite row, from the left, on screen row `row` (R190). -/
def Plot.spriteRow (p : Plot) (x0 : Byte) (row : Nat) (bits : Byte) : Plot :=
  (List.range 8).foldl
    (fun q b => if pixelSet bits b then q.pixel (plotColumn x0 b) row else q) p

/-- The rows of a sprite from row index `r` on (R190). -/
def Plot.spriteRows (p : Plot) (x0 y0 : Byte) (r : Nat) : List Byte → Plot
  | [] => p
  | bits :: rest => (p.spriteRow x0 (plotRow y0 r) bits).spriteRows x0 y0 (r + 1) rest

/-- `plot_sprite(x0, y0, rows)` on a framebuffer (R190); `redraw` is set by whoever writes the result back. -/
def plotSprite (f : Screen) (x0 y0 : Byte) (rows : List Byte) : Plot :=
  Plot.spriteRows ⟨f, false⟩ x0 y0 0 rows

/-- The clear framebuffer. -/
def blankScreen : Screen := Vector.replicate displayH 0

/-- CLS, R191. -/
def execCls (_ign : Nibble) (s : State) : Outcome := .next (s.setScreen blankScreen)

/-- DRW Vx, Vy, n, R192: coordinates are read before `V[0xF]` is written. -/
def execDrw (x y n : Nibble) (s : State) : Outcome :=
  match rangeFault s.I n.toNat with
  | some t => .next (s.raise t)
  | none =>
    let p := plotSprite s.fb (s.getV x) (s.getV y) (s.bytesAt s.I n.toNat)
    .next ((s.setScreen p.screen).setFlag (flagBit p.collision))

end Sys2Proof.Machine
end

