-- ==== Sys2Proof/Machine/Flow.lean ====
section
/-! DEFINITION. Control flow, spec/41_flow.md R120 to R124. On entry `pc = pc0 + 2` (spec/40_step_cycle.md R102);
the tick follows in `stepWith`. -/

namespace Sys2Proof.Machine

/-- SYS, R120: no effect but the event `diag(w)`. -/
def execSys (nnn : Imm12) (s : State) : Outcome := .next (s.emitDiag (wordNNN 0x0 nnn))

/-- RET, R121. -/
def execRet (_ign : Nibble) (s : State) : Outcome :=
  match s.pop with
  | none => .next (s.raise ⟨.stackUnderflow, 0⟩)
  | some (target, t) => .next (t.setPc target)

/-- JP nnn, R122. -/
def execJp (nnn : Imm12) (s : State) : Outcome := .next (s.setPc (addrOperand nnn))

/-- CALL nnn, R123. -/
def execCall (nnn : Imm12) (s : State) : Outcome :=
  match s.push s.pc with
  | none => .next (s.raise ⟨.stackOverflow, addrOperand nnn⟩)
  | some t => .next (t.setPc (addrOperand nnn))

/-- JP V0, nnn, R124: the sum is not masked. -/
def execJpV0 (nnn : Imm12) (s : State) : Outcome :=
  .next (s.setPc (addrOperand nnn + s.wideV 0x0))

end Sys2Proof.Machine
end

