-- ==== Sys2Proof/Machine/Illegal.lean ====
section
/-! DEFINITION. The unassigned words of spec/30_encoding.md R87: each takes the fault `IllegalInstruction(w)`
with the word in `fault_info` (spec/60_exceptions.md R225). -/

namespace Sys2Proof.Machine

/-- `8xyN` with `N` unassigned, R87, R225. -/
def execIllegal8 (x y n : Nibble) (s : State) : Outcome :=
  .next (s.raise ⟨.illegalInstruction, wordXYN 0x8 x y n⟩)

/-- `Exkk` with `kk` unassigned, R87, R225. -/
def execIllegalE (x : Nibble) (kk : Byte) (s : State) : Outcome :=
  .next (s.raise ⟨.illegalInstruction, wordXKK 0xE x kk⟩)

/-- `Fxkk` with `kk` unassigned, R87, R225. -/
def execIllegalF (x : Nibble) (kk : Byte) (s : State) : Outcome :=
  .next (s.raise ⟨.illegalInstruction, wordXKK 0xF x kk⟩)

end Sys2Proof.Machine
end

