-- ==== Sys2Proof/Machine/IndexMemory.lean ====
section
/-! DEFINITION. The index register and memory transfers, spec/45_index_memory.md R170 to R175. Each transfer
checks its whole range before its first write (spec/60_exceptions.md R228). -/

namespace Sys2Proof.Machine

/-- LD I, nnn, R170. -/
def execLdI (nnn : Imm12) (s : State) : Outcome := .next (s.setI (addrOperand nnn))

/-- ADD I, Vx, R171: modulo 65536, no flag, no fault. -/
def execAddI (x : Nibble) (s : State) : Outcome := .next (s.setI (s.I + s.wideV x))

/-- LD F, Vx, R172. -/
def execLdF (x : Nibble) (s : State) : Outcome := .next (s.setI (glyphAddr (s.getV x)))

/-- LD B, Vx, R173. -/
def execLdB (x : Nibble) (s : State) : Outcome :=
  match rangeFault s.I 3 with
  | some t => .next (s.raise t)
  | none => .next (s.storeAt s.I (decimalDigits (s.getV x)))

/-- LD [I], Vx, R174. -/
def execStoreRegs (x : Nibble) (s : State) : Outcome :=
  match rangeFault s.I (x.toNat + 1) with
  | some t => .next (s.raise t)
  | none => .next ((s.storeAt s.I (s.regsUpTo x)).setI (s.indexAfterTransfer x))

/-- LD Vx, [I], R175. -/
def execLoadRegs (x : Nibble) (s : State) : Outcome :=
  match rangeFault s.I (x.toNat + 1) with
  | some t => .next (s.raise t)
  | none => .next ((s.loadV (s.bytesAt s.I (x.toNat + 1))).setI (s.indexAfterTransfer x))

end Sys2Proof.Machine
end

