-- ==== Sys2Proof/Machine/Keyboard.lean ====
section
/-! DEFINITION. The keyboard instructions, spec/47_keyboard.md R200 to R203. -/

namespace Sys2Proof.Machine

/-- SKP Vx, R201. -/
def execSkp (x : Nibble) (s : State) : Outcome :=
  match keyOperand (s.getV x) with
  | .error t => .next (s.raise t)
  | .ok k => .next (s.skipIf (s.pressed k))

/-- SKNP Vx, R202. -/
def execSknp (x : Nibble) (s : State) : Outcome :=
  match keyOperand (s.getV x) with
  | .error t => .next (s.raise t)
  | .ok k => .next (s.skipIf (!s.pressed k))

/-- LD Vx, K, R203: with no key down the same instruction is fetched again. -/
def execLdVxK (x : Nibble) (s : State) : Outcome :=
  match s.scanKeys with
  | none => .next s.rewind
  | some k => .next (s.setV x (k.setWidth 8))

end Sys2Proof.Machine
end

