-- ==== Sys2Proof/Machine/Skip.lean ====
section
/-! DEFINITION. Conditional skips on registers, spec/42_skip.md R130 to R133. -/

namespace Sys2Proof.Machine

/-- SE Vx, kk, R130. -/
def execSeImm (x : Nibble) (kk : Byte) (s : State) : Outcome := .next (s.skipIf (s.getV x == kk))

/-- SNE Vx, kk, R131. -/
def execSneImm (x : Nibble) (kk : Byte) (s : State) : Outcome := .next (s.skipIf (s.getV x != kk))

/-- SE Vx, Vy, R132; the bottom nibble is not decoded (R86). -/
def execSeReg (x y _ign : Nibble) (s : State) : Outcome := .next (s.skipIf (s.getV x == s.getV y))

/-- SNE Vx, Vy, R133; the bottom nibble is not decoded (R86). -/
def execSneReg (x y _ign : Nibble) (s : State) : Outcome := .next (s.skipIf (s.getV x != s.getV y))

end Sys2Proof.Machine
end

