-- ==== Sys2Proof/Machine/Timers.lean ====
section
/-! DEFINITION. The timer instructions, spec/48_timers.md R210 to R212. The tick of the same step acts after
them (spec/40_step_cycle.md R105). -/

namespace Sys2Proof.Machine

/-- LD Vx, DT, R210. -/
def execLdVxDT (x : Nibble) (s : State) : Outcome := .next (s.setV x s.DT)

/-- LD DT, Vx, R211. -/
def execLdDTVx (x : Nibble) (s : State) : Outcome := .next (s.setDT (s.getV x))

/-- LD ST, Vx, R212. -/
def execLdSTVx (x : Nibble) (s : State) : Outcome := .next (s.setST (s.getV x))

end Sys2Proof.Machine
end

