-- ==== Sys2Proof/Machine/Step.lean ====
section
/-! DEFINITION. One step of the machine (spec/40_step_cycle.md R100), and the state with an instruction placed where
the step fetches. Both only call operations of Machine/Ops.lean. -/

namespace Sys2Proof.Machine

/-- The `step` event (R100): fetch, advance, dispatch by `exec`, tick. -/
def step (s : State) : Outcome := stepWith exec s

/-- The state with the instruction whose bits are `w`, numbered as spec/opcode_table.json numbers them,
stored where `step` fetches next (log entry 5). -/
def State.withFetchWord (s : State) (nbits w : Nat) : State :=
  s.placeWord (BitVec.ofNat 16 (w % 2 ^ nbits))

end Sys2Proof.Machine
end

