-- ==== Sys2Proof/Machine/HostEvents.lean ====
section
/-! DEFINITION. The host events beside `step` (spec/60_exceptions.md R236, R237, R230; spec/70_reset_and_hazards.md
R260, R262). Each is atomic and falls between steps (spec/20_memory.md R63); none of them is a step, so none
touches the events of the last step, `out`, but `reset`, which leaves no event. -/

namespace Sys2Proof.Machine

/-- The `reset` event, R260: every element at its reset value, the keyboard cells unchanged. The
configuration is fixed (R35(c)), and drawn random bytes stay drawn. -/
def State.resetEvent (s : State) : State :=
  { State.powerOn s.cfg with key := s.key, draws := s.draws }

/-- The halt of a rejected `load`, R230: `fault_pc` is the unchanged `pc`, `fault_info` the length. -/
def State.configFault (s : State) (len : Nat) : State :=
  { s with run := false, faultCause := .config, faultPc := s.pc, faultInfo := BitVec.ofNat 16 len }

/-- The `load(bytes)` event, R262: refused while halted; an empty or too long program is a
configuration fault (R230); else the bytes are written from 0x200 up and nothing else changes. -/
def State.load (s : State) (bytes : List Byte) : State :=
  if s.run then
    if bytes.length = 0 ∨ maxProgramLen < bytes.length then s.configFault bytes.length
    else s.storeAt programBase bytes
  else s

/-- `set_key(i, pressed)`, R237: an index outside 0..15 changes nothing. -/
def State.setKey (s : State) (i : Nat) (pressed : Bool) : State :=
  { s with key := s.key.setIfInBounds i pressed }

/-- `kbd_reset`, R237: all 16 cells released. -/
def State.kbdReset (s : State) : State := { s with key := Vector.replicate numKeys false }

/-- `clear_redraw`, R237. -/
def State.clearRedraw (s : State) : State := { s with redraw := false }

/-- `framebuffer()`, R237: the 2048 cells in index order, each 0 or 1. -/
def State.framebuffer (s : State) : List Byte :=
  (List.range (displayW * displayH)).map fun c => flagBit (cellByIndex s.fb c)

/-- `needs_redraw()`, R237. -/
def State.needsRedraw (s : State) : Bool := s.redraw

/-- The host's read of `run` and the fault record (R28, R236): `run`, the code, `fault_pc`, `fault_info`. -/
def State.faultRecord (s : State) : Bool × BitVec 3 × Word × Word :=
  (s.run, faultCode s.faultCause, s.faultPc, s.faultInfo)

/-- The host events that may change the state, beside `step` (R236). -/
inductive HostEvent where
  | reset
  | load (bytes : List Byte)
  | setKey (i : Nat) (pressed : Bool)
  | kbdReset
  | clearRedraw
  deriving DecidableEq, Repr

/-- The effect of a host event (R236). -/
def State.host (s : State) : HostEvent → State
  | .reset => s.resetEvent
  | .load bytes => s.load bytes
  | .setKey i pressed => s.setKey i pressed
  | .kbdReset => s.kbdReset
  | .clearRedraw => s.clearRedraw

end Sys2Proof.Machine
end

