-- ==== Sys2Proof/Safety.lean ====
section
/-! DEFINITION. The terms that claims about the machine are stated in: what a fault entry leaves, what an
instruction may write (the columns of spec/10_state.md R38), completion, the invariant of every run,
reachable states, the end of a run (spec/70_reset_and_hazards.md R271) and the pixels of a sprite. -/

namespace Sys2Proof.Machine

/-- A run is safe as long as no fault has cleared `run` (R27, R220). -/
def State.halted (s : State) : Bool := !s.run

/-- `t` is `s` after the fault entry of R227 for an instruction at `pc0`: the run stopped, the record
written, `pc` at the instruction, no event, and every other element as it was (R107, R228). -/
structure FaultEntry (pc0 : Word) (trap : Trap) (s t : State) : Prop where
  run : t.run = false
  cause : t.faultCause = trap.cause
  faultPc : t.faultPc = pc0
  info : t.faultInfo = trap.info
  pc : t.pc = pc0
  out : t.out = {}
  V : t.V = s.V
  I : t.I = s.I
  sp : t.sp = s.sp
  stack : t.stack = s.stack
  DT : t.DT = s.DT
  ST : t.ST = s.ST
  mem : t.mem = s.mem
  fb : t.fb = s.fb
  redraw : t.redraw = s.redraw
  key : t.key = s.key
  cfg : t.cfg = s.cfg
  draws : t.draws = s.draws

/-- What an instruction may write in its dispatch phase: the W entries of its row of the access summary
R38. Everything not listed stays. -/
structure Writes where
  /-- General registers. -/
  regs : List Nibble := []
  /-- Addresses of memory bytes. -/
  bytes : List Nat := []
  /-- Slots of the call stack. -/
  slots : List Nat := []
  /-- The stack pointer. -/
  sp : Bool := false
  /-- The program counter, beyond the advance. -/
  pc : Bool := false
  /-- `I`. -/
  index : Bool := false
  /-- `DT`. -/
  delay : Bool := false
  /-- `ST`. -/
  sound : Bool := false
  /-- `fb` and `redraw`. -/
  screen : Bool := false
  /-- The event `diag`. -/
  diag : Bool := false
  /-- The count of drawn random bytes. -/
  draw : Bool := false

/-- `t` differs from `s` at most in what `w` lists: every other register, every other byte of memory, every
other stack slot and every other element is unchanged; `run`, the fault record, the keys and the
configuration always are. -/
structure Frame (w : Writes) (s t : State) : Prop where
  regs : ∀ r : Nibble, r ∉ w.regs → t.getV r = s.getV r
  bytes : ∀ a : Nat, a ∉ w.bytes → t.peek a = s.peek a
  slots : ∀ j : Fin 16, j.val ∉ w.slots → t.stack[j] = s.stack[j]
  sp : w.sp = false → t.sp = s.sp
  pc : w.pc = false → t.pc = s.pc
  index : w.index = false → t.I = s.I
  delay : w.delay = false → t.DT = s.DT
  sound : w.sound = false → t.ST = s.ST
  fb : w.screen = false → t.fb = s.fb
  redraw : w.screen = false → t.redraw = s.redraw
  beep : t.out.beep = s.out.beep
  diag : w.diag = false → t.out.diag = s.out.diag
  draws : w.draw = false → t.draws = s.draws
  run : t.run = s.run
  cause : t.faultCause = s.faultCause
  faultPc : t.faultPc = s.faultPc
  faultInfo : t.faultInfo = s.faultInfo
  key : t.key = s.key
  cfg : t.cfg = s.cfg

/-- The dispatch of `i` on `s` answers a next state, which differs from `s` at most in what `w` lists and
has the property `p`. -/
def Completes (i : Instr) (s : State) (w : Writes) (p : State → Prop) : Prop :=
  ∃ t, exec i s = .next t ∧ Frame w s t ∧ p t

/-- The dispatch of `i` on `s`, where `pc = pc0 + 2`, takes a fault for the instruction at `pc0`. -/
def Faults (i : Instr) (s : State) (trap : Trap) : Prop :=
  ∃ t, exec i s = .next t ∧ FaultEntry (s.pc - 2) trap s t

/-- Every word with `(w AND mask) = pattern` decodes to the instruction `f` gives it (R84). -/
def DecodesAs (mask pattern : Word) (f : Word → Instr) : Prop :=
  ∀ w : Word, w &&& mask = pattern → decodeWord w = f w

/-- What holds in every state of a run. -/
structure State.Inv (s : State) : Prop where
  /-- Memory is in its canonical form: only addresses that exist are listed (R51). -/
  memory : Memory.wf s.cfg.font s.mem = true
  /-- `run = 0` if and only if `fault_cause ≠ 0` (R28). -/
  record : s.run = false ↔ s.faultCause ≠ .none
  /-- The fault record is written only by a fault and by reset (R28). -/
  clean : s.run = true → s.faultPc = 0 ∧ s.faultInfo = 0
  /-- A halted machine stands at the address its record names (R227, R230). -/
  haltedAt : s.run = false → s.pc = s.faultPc
  /-- `pc ≤ 0x10FE` (R109). -/
  pcRange : s.pc.toNat ≤ 0x10FE
  /-- A pushed return address is at most 0x1000 (R109, R123). -/
  stackRange : ∀ j : Fin 16, s.stack[j].toNat ≤ 0x1000

/-- The states of the runs of a machine with configuration `cfg`: from power-on, by steps and by host
events in any order (R236, R263). -/
inductive Reachable (cfg : Config) : State → Prop where
  | powerOn : Reachable cfg (State.powerOn cfg)
  | step {s t : State} : Reachable cfg s → Machine.step s = .next t → Reachable cfg t
  | host {s : State} (e : HostEvent) : Reachable cfg s → Reachable cfg (s.host e)

/-- "The run has ended" (R271): `run = 1` and the word at `pc` is a jump to `pc` itself. -/
def State.ended (s : State) : Bool :=
  s.run &&
    match s.fetch with
    | .ok w => decodeWord w == .jp (s.pc.setWidth 12)
    | .error _ => false

/-- A set pixel of the sprite `rows` drawn at `(x0, y0)` lands on the cell in `column` and `row` (R190). -/
def spriteCovers (x0 y0 : Byte) (rows : List Byte) (column row : Nat) : Prop :=
  ∃ r b : Nat, ∃ h : r < rows.length, b < 8 ∧ rows[r].getLsbD (7 - b) = true ∧
    column = (x0.toNat + b) % 64 ∧ row = (y0.toNat + r) % 32

end Sys2Proof.Machine
end

