-- ==== Sys2Proof/Certificates/Slice0/Obligations.lean ====
section
/-! DEFINITION. The statements about the machine, from the numbered rules of spec/. The per-instruction statements
speak of the dispatch phase, `exec`, on entry to which `pc = pc0 + 2` (spec/40_step_cycle.md R102); what a step
adds around it is stated by `StepRunsTheDecodedInstruction` and `TickFollowsEveryCompletedStep`. Registers are
read by `getV`, bytes of memory by `peek`; `Completes i s w p` says that the dispatch answers a next state that
differs from `s` at most in what `w` lists and has the property `p`; `Faults i s trap` that it takes that fault. -/

open Sys2Proof
open Sys2Proof.Machine

/-! ## Encoding (spec/30_encoding.md) -/

/-- Words written out from R84, at least one of every value of the top nibble and of every family of instructions,
decode to the instructions they stand for. That `05EE` is RET and `512F` SE is the spec's decision D7 (log entry 9),
and that the last three words are unassigned its decision D6 (log entry 16). -/
def Obligations.SampleWordsDecodeAsTheSpecSays : Prop :=
  (decodeWord 0x0123 = .sys 0x123 ∧ decodeWord 0x00E0 = .cls 0 ∧ decodeWord 0x05EE = .ret 5 ∧
    decodeWord 0x1ABC = .jp 0xABC ∧ decodeWord 0x2F00 = .call 0xF00 ∧ decodeWord 0xB321 = .jpV0 0x321) ∧
  (decodeWord 0x332A = .seImm 3 0x2A ∧ decodeWord 0x4A42 = .sneImm 0xA 0x42 ∧
    decodeWord 0x512F = .seReg 1 2 0xF ∧ decodeWord 0x9120 = .sneReg 1 2 0) ∧
  (decodeWord 0x6A37 = .ldImm 0xA 0x37 ∧ decodeWord 0x7220 = .addImm 2 0x20 ∧
    decodeWord 0xC30F = .rnd 3 0x0F) ∧
  (decodeWord 0x8120 = .ldReg 1 2 ∧ decodeWord 0x812E = .shlReg 1 2 ∧ decodeWord 0x8127 = .subnReg 1 2) ∧
  (decodeWord 0xA2F0 = .ldI 0x2F0 ∧ decodeWord 0xF21E = .addI 2 ∧ decodeWord 0xF333 = .ldB 3 ∧
    decodeWord 0xF255 = .storeRegs 2 ∧ decodeWord 0xF265 = .loadRegs 2) ∧
  (decodeWord 0xD12F = .drw 1 2 0xF ∧ decodeWord 0xE49E = .skp 4 ∧ decodeWord 0xE4A1 = .sknp 4 ∧
    decodeWord 0xF30A = .ldVxK 3) ∧
  (decodeWord 0xF207 = .ldVxDT 2 ∧ decodeWord 0xF115 = .ldDTVx 1 ∧ decodeWord 0xF118 = .ldSTVx 1) ∧
  (decodeWord 0x8128 = .illegal8 1 2 8 ∧ decodeWord 0xE19F = .illegalE 1 0x9F ∧
    decodeWord 0xF175 = .illegalF 1 0x75)

/-- The decoder reads back every well-formed instruction from its word, whatever its operands, the operand `ign` of
log entry 9 and the fields of the illegal rows (log entry 16) among them. -/
def Obligations.DecodeReadsBackEveryEncodedInstruction : Prop :=
  ∀ i : Instr, i.wellFormed = true → decodeWord (encode i) = i

/-- Every 16-bit word is the word of the instruction it decodes to, which is well formed: no bit is dropped, and the
decoder is total. That no bit is dropped is the model's choice: it keeps the bits that the decoder ignores as the
operand `ign` (log entry 9) and the fields of an unassigned word in its constructor (log entry 16). -/
def Obligations.EveryWordIsTheWordOfItsInstruction : Prop :=
  ∀ w : Word, (decodeWord w).wellFormed = true ∧ encode (decodeWord w) = w

/-- R84: a word decodes to the row of the opcode map that matches it and has the most mask bits. -/
def Obligations.DecoderFollowsTheOpcodeMap : Prop :=
  ∀ w : Word, opcodeRow (decodeWord w) ∈ opcodeRows ∧ rowMatches (opcodeRow (decodeWord w)) w = true ∧
    ∀ r ∈ opcodeRows, rowMatches r w = true → r ≠ opcodeRow (decodeWord w) →
      r.priority < (opcodeRow (decodeWord w)).priority

/-- R56, R80: the bytes of an instruction, high byte first, decode to it and leave the bytes after it; fewer
than two bytes are refused. -/
def Obligations.BytesDecodeBigEndian : Prop :=
  (∀ (i : Instr) (rest : List Byte), i.wellFormed = true →
    decodeBytes (encodeBytes i ++ rest) = .ok (i, rest)) ∧
  (∀ (hi lo : Byte) (rest : List Byte),
    (wordOfBytes hi lo).toNat = hi.toNat * 256 + lo.toNat ∧
    decodeBytes (hi :: lo :: rest) = .ok (decodeWord (wordOfBytes hi lo), rest)) ∧
  (∀ bytes : List Byte, bytes.length < 2 → decodeBytes bytes = .error .fewerThanTwoBytes)

/-- R87, R225: a word of the `8`, `E` or `F` family without an assigned secondary code raises
`IllegalInstruction(w)`, with the word itself in `fault_info`; no other word raises it. -/
def Obligations.UnassignedWordsRaiseIllegalInstruction : Prop :=
  ∀ (w : Word) (s : State),
    ((opField w = 0x8 ∧ nField w ∈ ([0x8, 0x9, 0xA, 0xB, 0xC, 0xD, 0xF] : List Nibble)) ∨
      (opField w = 0xE ∧ kkField w ∉ ([0x9E, 0xA1] : List Byte)) ∨
      (opField w = 0xF ∧ kkField w ∉
        ([0x07, 0x0A, 0x15, 0x18, 0x1E, 0x29, 0x33, 0x55, 0x65] : List Byte)) →
      Faults (decodeWord w) s ⟨.illegalInstruction, w⟩) ∧
    (¬((opField w = 0x8 ∧ nField w ∈ ([0x8, 0x9, 0xA, 0xB, 0xC, 0xD, 0xF] : List Nibble)) ∨
      (opField w = 0xE ∧ kkField w ∉ ([0x9E, 0xA1] : List Byte)) ∨
      (opField w = 0xF ∧ kkField w ∉
        ([0x07, 0x0A, 0x15, 0x18, 0x1E, 0x29, 0x33, 0x55, 0x65] : List Byte))) →
      s.faultCause ≠ .illegalInstruction →
      ∃ t, exec (decodeWord w) s = .next t ∧ t.faultCause ≠ .illegalInstruction)

/-- R87, R225: the three illegal-space rows take the fault `IllegalInstruction(w)` in every state. -/
def Obligations.IllegalRowsFault : Prop :=
  ∀ (s : State) (x y n : Nibble) (kk : Byte),
    Faults (.illegal8 x y n) s ⟨.illegalInstruction, encode (.illegal8 x y n)⟩ ∧
    Faults (.illegalE x kk) s ⟨.illegalInstruction, encode (.illegalE x kk)⟩ ∧
    Faults (.illegalF x kk) s ⟨.illegalInstruction, encode (.illegalF x kk)⟩

/-! ## The step (spec/40_step_cycle.md) -/

/-- R100 to R103, R107: with `run` set and two bytes to fetch, a step is the dispatch of the instruction the
big-endian word at `pc` decodes to, on the state with `pc + 2` and no event so far, followed by the tick
exactly when the dispatch left `run` set. -/
def Obligations.StepRunsTheDecodedInstruction : Prop :=
  ∀ (s : State) (i : Instr), s.run = true → s.pc.toNat ≤ 0xFFE →
    decodeWord (wordOfBytes (s.peek s.pc.toNat) (s.peek (s.pc.toNat + 1))) = i →
    step s =
      match exec i { s with pc := s.pc + 2, out := {} } with
      | .next m => .next (if m.run then m.tick else m)
      | .fault r => .fault r
      | .refused r => .refused r

/-- R101: a fetch at `pc > 0xFFE` takes the fault `AddressFault` at `pc` itself; the detail is 0x1000 at
0xFFF and `pc` above. -/
def Obligations.FetchBeyondMemoryFaults : Prop :=
  ∀ s : State, s.run = true → 0xFFE < s.pc.toNat →
    ∃ t, step s = .next t ∧
      FaultEntry s.pc ⟨.address, if s.pc = 0xFFF then 0x1000 else s.pc⟩ s t

/-- R108: while `run = 0` a step changes nothing and emits nothing. -/
def Obligations.HaltedStepChangesNothing : Prop :=
  ∀ s : State, s.run = false → step s = .next { s with out := {} }

/-- R220, R235: no step stops outside the state, and no instruction is refused: every dispatch and every
step answers a next state. -/
def Obligations.EveryDispatchAndStepAnswersNext : Prop :=
  (∀ (i : Instr) (s : State), ∃ t, exec i s = .next t) ∧ (∀ s : State, ∃ t, step s = .next t)

/-- R107, R228: a step that stops the run leaves the state at its start but for the fault record, with
`pc` at the faulting instruction. -/
def Obligations.FaultsArePrecise : Prop :=
  ∀ s t : State, s.run = true → step s = .next t → t.run = false →
    ∃ trap : Trap, FaultEntry s.pc trap s t ∧ trap.cause ≠ .none ∧ trap.cause ≠ .config

/-- R105, R240: in a step that completes, after the dispatch left the state `m`, both timers have gone down
by one while nonzero, `beep` is emitted exactly when `ST` goes from 1 to 0, and nothing else
changes. -/
def Obligations.TickFollowsEveryCompletedStep : Prop :=
  ∀ (s m : State) (w : Word), s.run = true → s.fetch = .ok w →
    exec (decodeWord w) s.advance = .next m → m.run = true →
    ∃ t, step s = .next t ∧ t.DT.toNat = m.DT.toNat - 1 ∧ t.ST.toNat = m.ST.toNat - 1 ∧
      (t.out.beep = true ↔ m.ST = 1) ∧
      t = { m with DT := t.DT, ST := t.ST, out := { m.out with beep := t.out.beep } }

/-- R105, R211, R212: whatever the instruction, a completed step takes each timer down by one from the value
the instruction wrote, if it was `Fx15` (`Fx18`), else from the value before the step. -/
def Obligations.TimersCountCompletedSteps : Prop :=
  ∀ (s t : State) (w : Word), s.run = true → s.fetch = .ok w → step s = .next t → t.run = true →
    t.DT.toNat =
      (match decodeWord w with | .ldDTVx x => (s.getV x).toNat | _ => s.DT.toNat) - 1 ∧
    t.ST.toNat =
      (match decodeWord w with | .ldSTVx x => (s.getV x).toNat | _ => s.ST.toNat) - 1

/-- R239, R120: a step emits `diag` exactly when it executed SYS, with the instruction word. -/
def Obligations.DiagIsEmittedExactlyBySys : Prop :=
  ∀ (s t : State) (w : Word), s.run = true → s.fetch = .ok w → step s = .next t →
    t.out.diag = if opField w = 0x0 ∧ kkField w ≠ 0xE0 ∧ kkField w ≠ 0xEE then some w else none

/-- R35(b): no state remembers the events of a step; what the model's `out` held before a step changes
nothing the step does. -/
def Obligations.EventsAreForgotten : Prop :=
  ∀ (s : State) (o : StepOutput), step { s with out := o } = step s

/-- R65: a store is seen by the next fetch with nothing between, at any two existing addresses. -/
def Obligations.StoresAreSeenByTheNextFetch : Prop :=
  ∀ (s : State) (hi lo : Byte), Memory.wf s.cfg.font s.mem = true → s.pc.toNat ≤ 0xFFE →
    (s.storeAt s.pc [hi, lo]).fetch = .ok (wordOfBytes hi lo)

/-- R229: which faults an instruction can take: `2nnn` only StackOverflow, `00EE` only StackUnderflow,
`Ex9E`/`ExA1` only KeyIndexFault, `Dxyn`/`Fx33`/`Fx55`/`Fx65` only AddressFault, an unassigned word only
IllegalInstruction, all others none. -/
def Obligations.EachInstructionHasAtMostOneFault : Prop :=
  ∀ (i : Instr) (s t : State), s.run = true → exec i s = .next t → t.run = false →
    match i with
    | .call _ => t.faultCause = .stackOverflow
    | .ret _ => t.faultCause = .stackUnderflow
    | .skp _ | .sknp _ => t.faultCause = .keyIndex
    | .drw _ _ _ | .ldB _ | .storeRegs _ | .loadRegs _ => t.faultCause = .address
    | .illegal8 _ _ _ | .illegalE _ _ | .illegalF _ _ => t.faultCause = .illegalInstruction
    | _ => False

/-- R109, R22: where a completed step leaves `pc`: after the instruction, past a skipped one, at a jump's target,
at a popped address, or, for a waiting `Fx0A`, where it was. -/
def Obligations.WhereACompletedStepLeavesThePc : Prop :=
  ∀ (s t : State) (w : Word), s.run = true → s.fetch = .ok w → step s = .next t → t.run = true →
    match decodeWord w with
    | .jp nnn | .call nnn => t.pc.toNat = nnn.toNat
    | .jpV0 nnn => t.pc.toNat = nnn.toNat + (s.getV 0).toNat
    | .ret _ => ∃ h : 0 < s.sp.val, t.pc = s.stack[s.sp.val - 1]
    | .ldVxK _ => t.pc = s.pc ∨ t.pc = s.pc + 2
    | .seImm _ _ | .sneImm _ _ | .seReg _ _ _ | .sneReg _ _ _ | .skp _ | .sknp _ =>
      t.pc = s.pc + 2 ∨ t.pc = s.pc + 4
    | _ => t.pc = s.pc + 2

/-! ## Whole-machine rules and invariants -/

/-- The state at power-on and at reset meets the invariant. -/
def Obligations.PowerOnMeetsTheInvariant : Prop :=
  (∀ cfg : Config, (State.powerOn cfg).Inv) ∧ State.reset.Inv

/-- From every state that meets the invariant a step gives one that meets it: memory canonical, `run = 0`
iff a cause is recorded (R28), `pc ≤ 0x10FE` (R109), return addresses at most 0x1000. -/
def Obligations.StepKeepsTheInvariant : Prop :=
  ∀ s t : State, s.Inv → step s = .next t → t.Inv

/-- Every host event keeps the invariant. -/
def Obligations.HostEventsKeepTheInvariant : Prop :=
  ∀ (s : State) (e : HostEvent), s.Inv → (s.host e).Inv

/-- In every run, of any machine, by any steps and host events in any order, the invariant holds and the
configuration is the machine's own (R35(c)). -/
def Obligations.EveryReachableStateMeetsTheInvariant : Prop :=
  ∀ (cfg : Config) (s : State), Reachable cfg s → s.Inv ∧ s.cfg = cfg

/-- R21: `V[0xF]` changes only by the six instructions that write it as a flag, or as the destination operand
of an instruction with an `x` field that loads it. -/
def Obligations.FlagRegisterWriters : Prop :=
  ∀ (i : Instr) (s t : State), exec i s = .next t → t.getV 0xF ≠ s.getV 0xF →
    match i with
    | .addReg _ _ | .subReg _ _ | .shrReg _ _ | .subnReg _ _ | .shlReg _ _ | .drw _ _ _ => True
    | .ldImm x _ | .addImm x _ | .ldReg x _ | .orReg x _ | .andReg x _ | .xorReg x _ | .rnd x _
    | .ldVxDT x | .ldVxK x | .loadRegs x => x = 0xF
    | _ => False

/-- R30, R31, R32, R35: a step writes the framebuffer only for CLS and DRW, never clears `redraw`, and never
writes a keyboard cell or the configuration. -/
def Obligations.StepsLeaveTheHostsStateAlone : Prop :=
  ∀ s t : State, step s = .next t →
    t.key = s.key ∧ t.cfg = s.cfg ∧ (s.redraw = true → t.redraw = true) ∧
    (t.fb ≠ s.fb ∨ t.redraw ≠ s.redraw → ∃ w, s.fetch = .ok w ∧
      ((∃ ign, decodeWord w = .cls ign) ∨ ∃ x y n, decodeWord w = .drw x y n))

/-- R38, R54: the only instructions that change a byte of memory are `Fx33` and `Fx55`, and only the bytes
they store. -/
def Obligations.OnlyTwoInstructionsStore : Prop :=
  ∀ (i : Instr) (s t : State) (a : Nat), exec i s = .next t → t.peek a ≠ s.peek a →
    (∃ x, i = .ldB x ∧ s.I.toNat ≤ a ∧ a < s.I.toNat + 3) ∨
    (∃ x, i = .storeRegs x ∧ s.I.toNat ≤ a ∧ a ≤ s.I.toNat + x.toNat)

/-! ## Control flow (spec/41_flow.md) -/

/-- R120: SYS writes nothing and emits `diag(w)`; its words are the `0x0xxx` words that are neither CLS nor RET. -/
def Obligations.SysOnlyEmitsDiag : Prop :=
  (∀ w : Word, w &&& 0xF000 = 0x0000 → kkField w ≠ 0xE0 → kkField w ≠ 0xEE →
    decodeWord w = .sys (nnnField w)) ∧
  ∀ (s : State) (nnn : Imm12), Completes (.sys nnn) s { diag := true } fun t =>
    t.out.diag = some (encode (.sys nnn))

/-- R122, R124: JP writes `nnn` to `pc`; JP V0 writes the unmasked sum of `nnn` and `V[0]`. -/
def Obligations.JumpsWriteThePc : Prop :=
  DecodesAs 0xF000 0x1000 (fun w => .jp (nnnField w)) ∧
  DecodesAs 0xF000 0xB000 (fun w => .jpV0 (nnnField w)) ∧
  ∀ (s : State) (nnn : Imm12),
    Completes (.jp nnn) s { pc := true } (fun t => t.pc.toNat = nnn.toNat) ∧
    Completes (.jpV0 nnn) s { pc := true } (fun t => t.pc.toNat = nnn.toNat + (s.getV 0).toNat)

/-- R123: CALL pushes `pc` and jumps, or takes StackOverflow on a full stack, with the target as detail. -/
def Obligations.CallPushesAndJumps : Prop :=
  DecodesAs 0xF000 0x2000 (fun w => .call (nnnField w)) ∧
  ∀ (s : State) (nnn : Imm12),
    (∀ h : s.sp.val < 16, Completes (.call nnn) s { slots := [s.sp.val], sp := true, pc := true } fun t =>
      t.sp.val = s.sp.val + 1 ∧ t.stack[s.sp.val] = s.pc ∧ t.pc.toNat = nnn.toNat) ∧
    (s.sp.val = 16 → Faults (.call nnn) s ⟨.stackOverflow, nnn.setWidth 16⟩)

/-- R121: RET pops into `pc`, the popped slot keeping its value, or takes StackUnderflow on an empty stack. -/
def Obligations.RetPopsIntoThePc : Prop :=
  DecodesAs 0xF0FF 0x00EE (fun w => .ret (xField w)) ∧
  ∀ (s : State) (ign : Nibble),
    (∀ h : 0 < s.sp.val, Completes (.ret ign) s { sp := true, pc := true } fun t =>
      t.sp.val = s.sp.val - 1 ∧ t.pc = s.stack[s.sp.val - 1]) ∧
    (s.sp.val = 0 → Faults (.ret ign) s ⟨.stackUnderflow, 0⟩)

/-- R121, R123: a RET straight after a CALL resumes after the CALL with the stack pointer as before. -/
def Obligations.RetUndoesCall : Prop :=
  ∀ (s : State) (nnn : Imm12) (ign : Nibble), s.sp.val < 16 →
    ∃ t u, exec (.call nnn) s = .next t ∧ exec (.ret ign) t = .next u ∧
      u.pc = s.pc ∧ u.sp = s.sp ∧ ∀ j : Fin 16, j.val < s.sp.val → u.stack[j] = s.stack[j]

/-! ## Skips (spec/42_skip.md) -/

/-- R130 to R133: the four skips add a further 2 to `pc` when their condition holds, and write nothing else. The
bottom nibble of the `5` and `9` families may be anything: the spec's decision D7 (log entry 9). -/
def Obligations.RegisterSkips : Prop :=
  DecodesAs 0xF000 0x3000 (fun w => .seImm (xField w) (kkField w)) ∧
  DecodesAs 0xF000 0x4000 (fun w => .sneImm (xField w) (kkField w)) ∧
  DecodesAs 0xF000 0x5000 (fun w => .seReg (xField w) (yField w) (nField w)) ∧
  DecodesAs 0xF000 0x9000 (fun w => .sneReg (xField w) (yField w) (nField w)) ∧
  ∀ (s : State) (x y ign : Nibble) (kk : Byte),
    Completes (.seImm x kk) s { pc := true }
      (fun t => t.pc = if s.getV x = kk then s.pc + 2 else s.pc) ∧
    Completes (.sneImm x kk) s { pc := true }
      (fun t => t.pc = if s.getV x = kk then s.pc else s.pc + 2) ∧
    Completes (.seReg x y ign) s { pc := true }
      (fun t => t.pc = if s.getV x = s.getV y then s.pc + 2 else s.pc) ∧
    Completes (.sneReg x y ign) s { pc := true }
      (fun t => t.pc = if s.getV x = s.getV y then s.pc else s.pc + 2)

/-! ## Immediates and random (spec/43_const_random.md) -/

/-- R140, R141: LD writes `kk`; ADD wraps modulo 256 and leaves the flag register alone. -/
def Obligations.ImmediateLoadAndAdd : Prop :=
  DecodesAs 0xF000 0x6000 (fun w => .ldImm (xField w) (kkField w)) ∧
  DecodesAs 0xF000 0x7000 (fun w => .addImm (xField w) (kkField w)) ∧
  ∀ (s : State) (x : Nibble) (kk : Byte),
    Completes (.ldImm x kk) s { regs := [x] } (fun t => t.getV x = kk) ∧
    Completes (.addImm x kk) s { regs := [x] }
      (fun t => (t.getV x).toNat = ((s.getV x).toNat + kk.toNat) % 256)

/-- R142: for every drawn byte, `Cxkk` leaves that byte AND `kk` in `V[x]`, so no bit where `kk` has none and a
value of at most `kk`; the machine's draw is one such byte, used once. -/
def Obligations.RandomIsMaskedByKk : Prop :=
  DecodesAs 0xF000 0xC000 (fun w => .rnd (xField w) (kkField w)) ∧
  ∀ (s : State) (x : Nibble) (kk : Byte),
    (∃ r : Byte, Completes (.rnd x kk) s { regs := [x], draw := true } fun t =>
      t = s.drawInto r x kk ∧ t.draws = s.draws + 1) ∧
    ∀ r : Byte, Frame { regs := [x], draw := true } s (s.drawInto r x kk) ∧
      (s.drawInto r x kk).getV x = r &&& kk ∧
      (s.drawInto r x kk).getV x &&& ~~~kk = 0 ∧ (s.drawInto r x kk).getV x ≤ kk

/-! ## Register-register family (spec/44_alu.md) -/

/-- R150 to R153: load, OR, AND, XOR, none of which writes a flag. -/
def Obligations.RegisterMoveAndLogic : Prop :=
  DecodesAs 0xF00F 0x8000 (fun w => .ldReg (xField w) (yField w)) ∧
  DecodesAs 0xF00F 0x8001 (fun w => .orReg (xField w) (yField w)) ∧
  DecodesAs 0xF00F 0x8002 (fun w => .andReg (xField w) (yField w)) ∧
  DecodesAs 0xF00F 0x8003 (fun w => .xorReg (xField w) (yField w)) ∧
  ∀ (s : State) (x y : Nibble),
    Completes (.ldReg x y) s { regs := [x] } (fun t => t.getV x = s.getV y) ∧
    Completes (.orReg x y) s { regs := [x] } (fun t => t.getV x = s.getV x ||| s.getV y) ∧
    Completes (.andReg x y) s { regs := [x] } (fun t => t.getV x = s.getV x &&& s.getV y) ∧
    Completes (.xorReg x y) s { regs := [x] } (fun t => t.getV x = s.getV x ^^^ s.getV y)

/-- R154, R159: ADD writes the sum modulo 256 to `V[x]` and the carry to `V[0xF]`, the flag last; operands are the
values before either write. -/
def Obligations.AddSetsCarry : Prop :=
  DecodesAs 0xF00F 0x8004 (fun w => .addReg (xField w) (yField w)) ∧
  ∀ (s : State) (x y : Nibble), Completes (.addReg x y) s { regs := [x, 0xF] } fun t =>
    t.getV 0xF = (if 255 < (s.getV x).toNat + (s.getV y).toNat then 1 else 0) ∧
    (x ≠ 0xF → (t.getV x).toNat = ((s.getV x).toNat + (s.getV y).toNat) % 256)

/-- R155, R159: SUB writes `V[x] - V[y]` modulo 256 and NOT borrow. -/
def Obligations.SubSetsNotBorrow : Prop :=
  DecodesAs 0xF00F 0x8005 (fun w => .subReg (xField w) (yField w)) ∧
  ∀ (s : State) (x y : Nibble), Completes (.subReg x y) s { regs := [x, 0xF] } fun t =>
    t.getV 0xF = (if (s.getV x).toNat < (s.getV y).toNat then 0 else 1) ∧
    (x ≠ 0xF → ((t.getV x).toNat : Int) = ((s.getV x).toNat - (s.getV y).toNat : Int) % 256)

/-- R157, R159: SUBN writes `V[y] - V[x]` modulo 256 to `V[x]` and NOT borrow. -/
def Obligations.SubnSetsNotBorrow : Prop :=
  DecodesAs 0xF00F 0x8007 (fun w => .subnReg (xField w) (yField w)) ∧
  ∀ (s : State) (x y : Nibble), Completes (.subnReg x y) s { regs := [x, 0xF] } fun t =>
    t.getV 0xF = (if (s.getV y).toNat < (s.getV x).toNat then 0 else 1) ∧
    (x ≠ 0xF → ((t.getV x).toNat : Int) = ((s.getV y).toNat - (s.getV x).toNat : Int) % 256)

/-- R156, R159: SHR halves the source (`V[y]` with SHIFT_SOURCE_VY, else `V[x]`) into `V[x]` and writes the bit
shifted out. -/
def Obligations.ShrHalvesAndSetsLowBit : Prop :=
  DecodesAs 0xF00F 0x8006 (fun w => .shrReg (xField w) (yField w)) ∧
  ∀ (s : State) (x y : Nibble),
    let v : Nat := (if s.cfg.shiftSourceVy then s.getV y else s.getV x).toNat
    Completes (.shrReg x y) s { regs := [x, 0xF] } fun t =>
      (t.getV 0xF).toNat = v % 2 ∧ (x ≠ 0xF → (t.getV x).toNat = v / 2)

/-- R158, R159: SHL doubles the source modulo 256 into `V[x]` and writes its top bit, as 0x80 with SHL_FLAG_RAW and as 1
without. -/
def Obligations.ShlDoublesAndSetsHighBit : Prop :=
  DecodesAs 0xF00F 0x800E (fun w => .shlReg (xField w) (yField w)) ∧
  ∀ (s : State) (x y : Nibble),
    let v : Nat := (if s.cfg.shiftSourceVy then s.getV y else s.getV x).toNat
    Completes (.shlReg x y) s { regs := [x, 0xF] } fun t =>
      (t.getV 0xF).toNat = (if 128 ≤ v then (if s.cfg.shlFlagRaw then 0x80 else 1) else 0) ∧
      (x ≠ 0xF → (t.getV x).toNat = 2 * v % 256)

/-! ## Index register and memory (spec/45_index_memory.md) -/

/-- R170 to R172: the three writes of `I`, none of which can fault or writes a flag. -/
def Obligations.IndexRegisterWrites : Prop :=
  DecodesAs 0xF000 0xA000 (fun w => .ldI (nnnField w)) ∧
  DecodesAs 0xF0FF 0xF01E (fun w => .addI (xField w)) ∧
  DecodesAs 0xF0FF 0xF029 (fun w => .ldF (xField w)) ∧
  ∀ (s : State) (nnn : Imm12) (x : Nibble),
    Completes (.ldI nnn) s { index := true } (fun t => t.I.toNat = nnn.toNat) ∧
    Completes (.addI x) s { index := true }
      (fun t => t.I.toNat = (s.I.toNat + (s.getV x).toNat) % 65536) ∧
    Completes (.ldF x) s { index := true } (fun t => t.I.toNat = (s.getV x).toNat * 5)

/-- R173: `Fx33` stores hundreds, tens and ones at `I`, `I+1`, `I+2`, or takes AddressFault when one of them exceeds
0xFFF: the fault entry of R227 (the spec's decisions D1 and D4), as a next state (log entry 4). -/
def Obligations.BcdStoresThreeDigits : Prop :=
  DecodesAs 0xF0FF 0xF033 (fun w => .ldB (xField w)) ∧
  ∀ (s : State) (x : Nibble),
    (Memory.wf s.cfg.font s.mem = true → s.I.toNat + 2 ≤ 0xFFF →
      Completes (.ldB x) s { bytes := [s.I.toNat, s.I.toNat + 1, s.I.toNat + 2] } fun t =>
        (t.peek s.I.toNat).toNat = (s.getV x).toNat / 100 ∧
        (t.peek (s.I.toNat + 1)).toNat = (s.getV x).toNat / 10 % 10 ∧
        (t.peek (s.I.toNat + 2)).toNat = (s.getV x).toNat % 10) ∧
    (0xFFF < s.I.toNat + 2 →
      Faults (.ldB x) s ⟨.address, BitVec.ofNat 16 (max s.I.toNat 0x1000)⟩)

/-- R174: `Fx55` stores `V[0]`..`V[x]` at `I`.. and moves `I` past them with LDST_INCREMENT_I, or takes AddressFault. -/
def Obligations.StoreRegistersToMemory : Prop :=
  DecodesAs 0xF0FF 0xF055 (fun w => .storeRegs (xField w)) ∧
  ∀ (s : State) (x : Nibble),
    (Memory.wf s.cfg.font s.mem = true → s.I.toNat + x.toNat ≤ 0xFFF →
      Completes (.storeRegs x) s
        { bytes := (List.range (x.toNat + 1)).map (s.I.toNat + ·), index := true } fun t =>
          (∀ j : Nibble, j ≤ x → t.peek (s.I.toNat + j.toNat) = s.getV j) ∧
          t.I.toNat = if s.cfg.ldstIncrementI then s.I.toNat + x.toNat + 1 else s.I.toNat) ∧
    (0xFFF < s.I.toNat + x.toNat →
      Faults (.storeRegs x) s ⟨.address, BitVec.ofNat 16 (max s.I.toNat 0x1000)⟩)

/-- R175: `Fx65` loads `V[0]`..`V[x]` from `I`.. and moves `I` past them with LDST_INCREMENT_I, or takes AddressFault. -/
def Obligations.LoadRegistersFromMemory : Prop :=
  DecodesAs 0xF0FF 0xF065 (fun w => .loadRegs (xField w)) ∧
  ∀ (s : State) (x : Nibble),
    (s.I.toNat + x.toNat ≤ 0xFFF →
      Completes (.loadRegs x) s
        { regs := (List.range (x.toNat + 1)).map (BitVec.ofNat 4), index := true } fun t =>
          (∀ j : Nibble, j ≤ x → t.getV j = s.peek (s.I.toNat + j.toNat)) ∧
          t.I.toNat = if s.cfg.ldstIncrementI then s.I.toNat + x.toNat + 1 else s.I.toNat) ∧
    (0xFFF < s.I.toNat + x.toNat →
      Faults (.loadRegs x) s ⟨.address, BitVec.ofNat 16 (max s.I.toNat 0x1000)⟩)

/-- R175's corner case: `Fx55`, then `Fx65` with the same `x` and with `I` set back, leaves the registers `V[0]` to
`V[x]` as they were, whatever the registers held in between; the registers above `x` are those before the `Fx65`. -/
def Obligations.StoreThenLoadRoundTrips : Prop :=
  ∀ (s t r : State) (x : Nibble), Memory.wf s.cfg.font s.mem = true → s.I.toNat + x.toNat ≤ 0xFFF →
    exec (.storeRegs x) s = .next t → r.mem = t.mem → r.cfg = t.cfg → r.I = s.I →
    ∃ u, exec (.loadRegs x) r = .next u ∧ (∀ j : Nibble, j ≤ x → u.getV j = s.getV j) ∧
      ∀ j : Nibble, x < j → u.getV j = r.getV j

/-! ## Display (spec/46_display.md) -/

/-- R191: CLS turns every cell off and sets `redraw`; so does every word `0NE0`, which is the spec's decision D7 (log
entry 9). -/
def Obligations.ClsClearsTheScreen : Prop :=
  DecodesAs 0xF0FF 0x00E0 (fun w => .cls (xField w)) ∧
  ∀ (s : State) (ign : Nibble), Completes (.cls ign) s { screen := true } fun t =>
    t.redraw = true ∧ ∀ c : Nat, c < 2048 → cellByIndex t.fb c = false

/-- R190: the plotter XORs exactly the cells the sprite's set pixels land on, with wraparound at both edges, and
reports a collision exactly when one of them was on before the call. -/
def Obligations.PlotterXorsTheCoveredCells : Prop :=
  ∀ (f : Screen) (x0 y0 : Byte) (rows : List Byte), rows.length ≤ 15 →
    (∀ column row : Nat, column < 64 → row < 32 →
      (cellAt (plotSprite f x0 y0 rows).screen column row ≠ cellAt f column row ↔
        spriteCovers x0 y0 rows column row)) ∧
    ((plotSprite f x0 y0 rows).collision = true ↔
      ∃ column row : Nat, spriteCovers x0 y0 rows column row ∧ cellAt f column row = true)

/-- R192: DRW reads `n` rows at `I`, XORs them onto the screen at (`V[x]`, `V[y]`), both read before `V[0xF]` is written,
sets `redraw`, and writes the collision to `V[0xF]`; or takes AddressFault when a row's address exceeds
0xFFF, which `n = 0` never does. -/
def Obligations.DrwDrawsTheSprite : Prop :=
  DecodesAs 0xF000 0xD000 (fun w => .drw (xField w) (yField w) (nField w)) ∧
  ∀ (s : State) (x y n : Nibble),
    let rows : List Byte := (List.range n.toNat).map (fun r => s.peek (s.I.toNat + r))
    (n = 0 ∨ s.I.toNat + n.toNat - 1 ≤ 0xFFF →
      Completes (.drw x y n) s { regs := [0xF], screen := true } fun t =>
        t.redraw = true ∧
        (∀ column row : Nat, column < 64 → row < 32 →
          (cellAt t.fb column row ≠ cellAt s.fb column row ↔
            spriteCovers (s.getV x) (s.getV y) rows column row)) ∧
        ((∃ column row : Nat, spriteCovers (s.getV x) (s.getV y) rows column row ∧
            cellAt s.fb column row = true) → t.getV 0xF = 1) ∧
        (¬(∃ column row : Nat, spriteCovers (s.getV x) (s.getV y) rows column row ∧
            cellAt s.fb column row = true) → t.getV 0xF = 0)) ∧
    (n ≠ 0 ∧ 0xFFF < s.I.toNat + n.toNat - 1 →
      Faults (.drw x y n) s ⟨.address, BitVec.ofNat 16 (max s.I.toNat 0x1000)⟩)

/-- R192's corner case: drawing the same sprite twice at the same place restores the framebuffer; and where the first
draw reported no collision, the second reports one exactly when the sprite has a set pixel (without that premise
R192's remark is false of its own pseudocode: DEDUCED, log entry 12). -/
def Obligations.DrawingTwiceRestoresTheScreen : Prop :=
  ∀ (f : Screen) (x0 y0 : Byte) (rows : List Byte), rows.length ≤ 15 →
    (plotSprite (plotSprite f x0 y0 rows).screen x0 y0 rows).screen = f ∧
    ((plotSprite f x0 y0 rows).collision = false →
      ((plotSprite (plotSprite f x0 y0 rows).screen x0 y0 rows).collision = true ↔
        ∃ b ∈ rows, b ≠ 0))

/-! ## Keyboard (spec/47_keyboard.md) -/

/-- R201, R202: SKP and SKNP skip on the level of the key `V[x]` names, and take KeyIndexFault when it names none. -/
def Obligations.KeySkips : Prop :=
  DecodesAs 0xF0FF 0xE09E (fun w => .skp (xField w)) ∧
  DecodesAs 0xF0FF 0xE0A1 (fun w => .sknp (xField w)) ∧
  ∀ (s : State) (x : Nibble),
    (∀ h : (s.getV x).toNat < 16,
      Completes (.skp x) s { pc := true }
        (fun t => t.pc = if s.key[(s.getV x).toNat] = true then s.pc + 2 else s.pc) ∧
      Completes (.sknp x) s { pc := true }
        (fun t => t.pc = if s.key[(s.getV x).toNat] = true then s.pc else s.pc + 2)) ∧
    (0xF < (s.getV x).toNat →
      Faults (.skp x) s ⟨.keyIndex, (s.getV x).setWidth 16⟩ ∧
      Faults (.sknp x) s ⟨.keyIndex, (s.getV x).setWidth 16⟩)

/-- R200: the scan returns the greatest index whose cell is 1, or none when all 16 cells are 0; a key is pressed
exactly when its cell is 1. -/
def Obligations.KeyScanPrefersTheHighestIndex : Prop :=
  ∀ s : State,
    (∀ k : Nibble, s.scanKeys = some k ↔
      s.key[k.toNat] = true ∧ ∀ j : Nibble, k < j → s.key[j.toNat] = false) ∧
    (s.scanKeys = none ↔ ∀ j : Nibble, s.key[j.toNat] = false) ∧
    ∀ k : Nibble, s.pressed k = s.key[k.toNat]

/-- R203: with a key down `Fx0A` writes the highest pressed index to `V[x]`; with none it moves `pc` back to itself
and writes nothing. -/
def Obligations.KeyWaitTakesTheHighestKeyOrWaits : Prop :=
  DecodesAs 0xF0FF 0xF00A (fun w => .ldVxK (xField w)) ∧
  ∀ (s : State) (x : Nibble),
    (∀ k : Nibble, s.key[k.toNat] = true → (∀ j : Nibble, k < j → s.key[j.toNat] = false) →
      Completes (.ldVxK x) s { regs := [x] } (fun t => t.getV x = k.setWidth 8)) ∧
    ((∀ j : Nibble, s.key[j.toNat] = false) →
      Completes (.ldVxK x) s { pc := true } (fun t => t.pc = s.pc - 2))

/-- R203(a), R36: a whole step of the wait, with no key down, lands on the same instruction, and changes nothing
but the timers and the events. -/
def Obligations.WaitingStepOnlyTicks : Prop :=
  ∀ (s : State) (w : Word) (x : Nibble), s.run = true → s.fetch = .ok w → decodeWord w = .ldVxK x →
    (∀ j : Fin 16, s.key[j] = false) →
    ∃ t, step s = .next t ∧ t = { s with DT := t.DT, ST := t.ST, out := t.out } ∧
      t.DT.toNat = s.DT.toNat - 1 ∧ t.ST.toNat = s.ST.toNat - 1 ∧
      t.out = { beep := s.ST == 1, diag := none }

/-! ## Timers (spec/48_timers.md) -/

/-- R210 to R212: the moves to and from the timers, before the tick of the same step. -/
def Obligations.TimerMoves : Prop :=
  DecodesAs 0xF0FF 0xF007 (fun w => .ldVxDT (xField w)) ∧
  DecodesAs 0xF0FF 0xF015 (fun w => .ldDTVx (xField w)) ∧
  DecodesAs 0xF0FF 0xF018 (fun w => .ldSTVx (xField w)) ∧
  ∀ (s : State) (x : Nibble),
    Completes (.ldVxDT x) s { regs := [x] } (fun t => t.getV x = s.DT) ∧
    Completes (.ldDTVx x) s { delay := true } (fun t => t.DT = s.getV x) ∧
    Completes (.ldSTVx x) s { sound := true } (fun t => t.ST = s.getV x)

/-! ## Host events, reset, end of a run (spec/60_exceptions.md, spec/70_reset_and_hazards.md) -/

/-- R260: the `reset` event installs every reset value of R34 and leaves the keyboard cells alone. -/
def Obligations.ResetInstallsTheResetValues : Prop :=
  ∀ s : State,
    (∀ i : Nibble, s.resetEvent.getV i = 0) ∧ s.resetEvent.I = 0 ∧ s.resetEvent.pc = 0x0200 ∧
    s.resetEvent.sp = 0 ∧ (∀ j : Fin 16, s.resetEvent.stack[j] = 0) ∧ s.resetEvent.DT = 0 ∧
    s.resetEvent.ST = 0 ∧ s.resetEvent.run = true ∧ s.resetEvent.faultCause = .none ∧
    s.resetEvent.faultPc = 0 ∧ s.resetEvent.faultInfo = 0 ∧
    (∀ a : Nat, s.resetEvent.peek a = if h : a < 0x50 then s.cfg.font[a] else 0) ∧
    (∀ c : Nat, c < 2048 → cellByIndex s.resetEvent.fb c = false) ∧ s.resetEvent.redraw = true ∧
    s.resetEvent.key = s.key ∧ s.resetEvent.cfg = s.cfg ∧ s.resetEvent.out = {}

/-- R262, R230: `load` writes its bytes from 0x200 up and nothing else; an empty or too long program halts the
machine with ConfigFault and writes no byte; a halted machine refuses it. -/
def Obligations.LoadWritesTheProgram : Prop :=
  ∀ (s : State) (bytes : List Byte),
    (s.run = true → Memory.wf s.cfg.font s.mem = true → 1 ≤ bytes.length → bytes.length ≤ 0xE00 →
      (∀ (j : Nat) (h : j < bytes.length), (s.load bytes).peek (0x200 + j) = bytes[j]) ∧
      (∀ a : Nat, a < 0x200 ∨ 0x200 + bytes.length ≤ a → (s.load bytes).peek a = s.peek a) ∧
      s.load bytes = { s with mem := (s.load bytes).mem }) ∧
    (s.run = true → bytes.length = 0 ∨ 0xE00 < bytes.length →
      s.load bytes = { s with run := false, faultCause := .config, faultPc := s.pc, faultInfo := BitVec.ofNat 16 bytes.length }) ∧
    (s.run = false → s.load bytes = s)

/-- R237: `set_key` writes one cell, or nothing for an index outside 0..15; `kbd_reset` releases all 16 keys;
`clear_redraw` clears the flag; `framebuffer()` gives the 2048 cells in index order. -/
def Obligations.SmallHostEvents : Prop :=
  ∀ (s : State) (i : Nat) (p : Bool),
    (∀ j : Fin 16, (s.setKey i p).key[j] = if j.val = i then p else s.key[j]) ∧
    s.setKey i p = { s with key := (s.setKey i p).key } ∧
    (16 ≤ i → s.setKey i p = s) ∧
    (∀ j : Fin 16, s.kbdReset.key[j] = false) ∧ s.kbdReset = { s with key := s.kbdReset.key } ∧
    s.clearRedraw = { s with redraw := false } ∧ s.needsRedraw = s.redraw ∧
    s.framebuffer.length = 2048 ∧
    ∀ c : Nat, s.framebuffer[c]? = if c < 2048 then some (if cellByIndex s.fb c then 1 else 0) else none

/-- R271: a run that has ended stays ended: each further step leaves everything but the timers and the events
unchanged. -/
def Obligations.EndedRunsOnlyTick : Prop :=
  ∀ s : State, s.ended = true →
    ∃ t, step s = .next t ∧ t = { s with DT := t.DT, ST := t.ST, out := t.out } ∧ t.ended = true ∧
      t.DT.toNat = s.DT.toNat - 1 ∧ t.ST.toNat = s.ST.toNat - 1

/-- R231, R232: a halted machine stays halted, with the same fault record, under every step and every host event but
`reset`, and `reset` sets it running with a clear record. R221, R28: the host reads `run`, the code of the cause, its
address and its detail, and each cause has the code of R221's table; code 7 is unused. -/
def Obligations.OnlyResetRevivesAHaltedMachine : Prop :=
  (∀ s : State, s.faultRecord = (s.run, faultCode s.faultCause, s.faultPc, s.faultInfo)) ∧
  (faultCode .none = 0 ∧ faultCode .config = 1 ∧ faultCode .address = 2 ∧ faultCode .stackOverflow = 3 ∧
    faultCode .stackUnderflow = 4 ∧ faultCode .illegalInstruction = 5 ∧ faultCode .keyIndex = 6 ∧
    ∀ c : FaultCause, faultCode c ≠ 7) ∧
  ∀ s : State, s.run = false →
    (∀ t, step s = .next t → t.run = false ∧ t.faultRecord = s.faultRecord) ∧
    (∀ e : HostEvent, e ≠ .reset → (s.host e).faultRecord = s.faultRecord) ∧
    s.resetEvent.faultRecord = (true, 0, 0, 0)
end

