-- ==== Sys2Proof/Laws/Display.lean ====
section
/-! SUPPORT. The cells of a framebuffer after one pixel is plotted (spec/46_display.md R190). -/

namespace Sys2Proof.Machine

/-- The column of a pixel, with the width as a numeral (R190). -/
theorem plotColumn_eq (x0 : Byte) (b : Nat) : plotColumn x0 b = (x0.toNat + b) % 64 := rfl

/-- The row of a sprite row, with the height as a numeral (R190). -/
theorem plotRow_eq (y0 : Byte) (r : Nat) : plotRow y0 r = (y0.toNat + r) % 32 := rfl

/-- The cell of an index, with the width as a numeral (R30). -/
theorem cellByIndex_eq (f : Screen) (c : Nat) : cellByIndex f c = cellAt f (c % 64) (c / 64) := rfl

theorem plotColumn_lt (x0 : Byte) (b : Nat) : plotColumn x0 b < 64 := Nat.mod_lt _ (by decide)

theorem plotRow_lt (y0 : Byte) (r : Nat) : plotRow y0 r < 32 := Nat.mod_lt _ (by decide)

/-- A flipped cell is XORed with 1 and every other cell is untouched. -/
theorem cellAt_flipCell (f : Screen) {c r : Nat} (c' r' : Nat) (hc : c < 64) (hr : r < 32) :
    cellAt (flipCell f c r) c' r' = (cellAt f c' r' ^^ (decide (c' = c) && decide (r' = r))) := by
  unfold cellAt flipCell
  by_cases h : r' = r
  · subst h
    simp [hr, BitVec.getLsbD_twoPow, hc, eq_comm]
  · have : r ≠ r' := fun e => h e.symm
    simp [h, this]

/-- What one pixel of a sprite does to a plot: a set pixel records the collision and flips its cell, a
clear one does nothing. -/
theorem Plot.pixel_spec (p : Plot) {c r : Nat} (c' r' : Nat) (hc : c < 64) (hr : r < 32) :
    (p.pixel c r).collision = (p.collision || cellAt p.screen c r) ∧
      cellAt (p.pixel c r).screen c' r' =
        (cellAt p.screen c' r' ^^ (decide (c' = c) && decide (r' = r))) :=
  ⟨rfl, cellAt_flipCell p.screen c' r' hc hr⟩

theorem cellAt_blankScreen (c r : Nat) : cellAt blankScreen c r = false := by
  unfold cellAt blankScreen
  by_cases h : r < 32 <;> simp [h]

end Sys2Proof.Machine
end

