-- ==== Sys2Proof/Laws/Encoding.lean ====
section
/-! SUPPORT. The fields of a word built by each of the three formats (spec/30_encoding.md R81), the word built
from its own fields, and the two bytes of a word (spec/20_memory.md R56). -/

namespace Sys2Proof

@[simp] theorem opField_wordXKK (op x : Nibble) (kk : Byte) : opField (wordXKK op x kk) = op := by
  ext i h; simp [opField, wordXKK]; grind

@[simp] theorem xField_wordXKK (op x : Nibble) (kk : Byte) : xField (wordXKK op x kk) = x := by
  ext i h; simp [xField, wordXKK]; grind

@[simp] theorem kkField_wordXKK (op x : Nibble) (kk : Byte) : kkField (wordXKK op x kk) = kk := by
  ext i h; simp [kkField, wordXKK]; grind

@[simp] theorem opField_wordXYN (op x y n : Nibble) : opField (wordXYN op x y n) = op := by
  ext i h; simp [opField, wordXYN]; grind

@[simp] theorem xField_wordXYN (op x y n : Nibble) : xField (wordXYN op x y n) = x := by
  ext i h; simp [xField, wordXYN]; grind

@[simp] theorem yField_wordXYN (op x y n : Nibble) : yField (wordXYN op x y n) = y := by
  ext i h; simp [yField, wordXYN]; grind

@[simp] theorem nField_wordXYN (op x y n : Nibble) : nField (wordXYN op x y n) = n := by
  ext i h; simp [nField, wordXYN]; grind

@[simp] theorem opField_wordNNN (op : Nibble) (nnn : Imm12) : opField (wordNNN op nnn) = op := by
  ext i h; simp [opField, wordNNN]; grind

@[simp] theorem nnnField_wordNNN (op : Nibble) (nnn : Imm12) : nnnField (wordNNN op nnn) = nnn := by
  ext i h; simp [nnnField, wordNNN]; grind

@[simp] theorem kkField_wordNNN (op : Nibble) (nnn : Imm12) : kkField (wordNNN op nnn) = nnn.extractLsb' 0 8 := by
  ext i h; simp [kkField, wordNNN]; grind

@[simp] theorem nnnField_wordXKK (op x : Nibble) (kk : Byte) : nnnField (wordXKK op x kk) = x ++ kk := by
  ext i h; simp [nnnField, wordXKK]; grind

@[simp] theorem wordXKK_fields (w : Word) : wordXKK (opField w) (xField w) (kkField w) = w := by
  ext i h; simp [wordXKK, opField, xField, kkField]; grind

@[simp] theorem wordXYN_fields (w : Word) : wordXYN (opField w) (xField w) (yField w) (nField w) = w := by
  ext i h; simp [wordXYN, opField, xField, yField, nField]; grind

@[simp] theorem wordNNN_fields (w : Word) : wordNNN (opField w) (nnnField w) = w := by
  ext i h; simp [wordNNN, opField, nnnField]; grind

@[simp] theorem wordOfBytes_bytes (w : Word) : wordOfBytes (highByte w) (lowByte w) = w := by
  ext i h; simp [wordOfBytes, highByte, lowByte]; grind

@[simp] theorem highByte_wordOfBytes (hi lo : Byte) : highByte (wordOfBytes hi lo) = hi := by
  ext i h; simp [wordOfBytes, highByte]; grind

@[simp] theorem lowByte_wordOfBytes (hi lo : Byte) : lowByte (wordOfBytes hi lo) = lo := by
  ext i h; simp [wordOfBytes, lowByte]; grind

/-- The mask of the rows decoded on the top nibble alone (R84). -/
theorem and_F000 (w : Word) : w &&& 0xF000#16 = wordNNN (opField w) 0 := by
  apply BitVec.eq_of_getLsbD_eq; intro i h
  simp only [wordNNN, opField, BitVec.getLsbD_and, BitVec.getLsbD_append, BitVec.getLsbD_extractLsb']
  interval_cases i <;> simp

/-- The mask of the rows decoded on the top and bottom nibbles (R84). -/
theorem and_F00F (w : Word) : w &&& 0xF00F#16 = wordXYN (opField w) 0 0 (nField w) := by
  apply BitVec.eq_of_getLsbD_eq; intro i h
  simp only [wordXYN, opField, nField, BitVec.getLsbD_and, BitVec.getLsbD_append, BitVec.getLsbD_extractLsb']
  interval_cases i <;> simp

/-- The mask of the rows decoded on the top nibble and the low byte (R84). -/
theorem and_F0FF (w : Word) : w &&& 0xF0FF#16 = wordXKK (opField w) 0 (kkField w) := by
  apply BitVec.eq_of_getLsbD_eq; intro i h
  simp only [wordXKK, opField, kkField, BitVec.getLsbD_and, BitVec.getLsbD_append, BitVec.getLsbD_extractLsb']
  interval_cases i <;> simp

end Sys2Proof
end

