-- ==== Sys2Proof/Laws/State.lean ====
section
/-! SUPPORT. One lemma per field of `State` for each of the field updates of Machine/Ops.lean, true by `rfl`, so
that no later proof unfolds a record update. -/

namespace Sys2Proof.Machine

variable (s : State)

@[simp] theorem State.setI_V (v : Word) : (s.setI v).V = s.V := rfl
@[simp] theorem State.setI_pc (v : Word) : (s.setI v).pc = s.pc := rfl
@[simp] theorem State.setI_I (v : Word) : (s.setI v).I = v := rfl
@[simp] theorem State.setI_sp (v : Word) : (s.setI v).sp = s.sp := rfl
@[simp] theorem State.setI_stack (v : Word) : (s.setI v).stack = s.stack := rfl
@[simp] theorem State.setI_DT (v : Word) : (s.setI v).DT = s.DT := rfl
@[simp] theorem State.setI_ST (v : Word) : (s.setI v).ST = s.ST := rfl
@[simp] theorem State.setI_run (v : Word) : (s.setI v).run = s.run := rfl
@[simp] theorem State.setI_faultCause (v : Word) : (s.setI v).faultCause = s.faultCause := rfl
@[simp] theorem State.setI_faultPc (v : Word) : (s.setI v).faultPc = s.faultPc := rfl
@[simp] theorem State.setI_faultInfo (v : Word) : (s.setI v).faultInfo = s.faultInfo := rfl
@[simp] theorem State.setI_mem (v : Word) : (s.setI v).mem = s.mem := rfl
@[simp] theorem State.setI_fb (v : Word) : (s.setI v).fb = s.fb := rfl
@[simp] theorem State.setI_redraw (v : Word) : (s.setI v).redraw = s.redraw := rfl
@[simp] theorem State.setI_key (v : Word) : (s.setI v).key = s.key := rfl
@[simp] theorem State.setI_cfg (v : Word) : (s.setI v).cfg = s.cfg := rfl
@[simp] theorem State.setI_draws (v : Word) : (s.setI v).draws = s.draws := rfl
@[simp] theorem State.setI_out (v : Word) : (s.setI v).out = s.out := rfl

@[simp] theorem State.setPc_V (v : Word) : (s.setPc v).V = s.V := rfl
@[simp] theorem State.setPc_pc (v : Word) : (s.setPc v).pc = v := rfl
@[simp] theorem State.setPc_I (v : Word) : (s.setPc v).I = s.I := rfl
@[simp] theorem State.setPc_sp (v : Word) : (s.setPc v).sp = s.sp := rfl
@[simp] theorem State.setPc_stack (v : Word) : (s.setPc v).stack = s.stack := rfl
@[simp] theorem State.setPc_DT (v : Word) : (s.setPc v).DT = s.DT := rfl
@[simp] theorem State.setPc_ST (v : Word) : (s.setPc v).ST = s.ST := rfl
@[simp] theorem State.setPc_run (v : Word) : (s.setPc v).run = s.run := rfl
@[simp] theorem State.setPc_faultCause (v : Word) : (s.setPc v).faultCause = s.faultCause := rfl
@[simp] theorem State.setPc_faultPc (v : Word) : (s.setPc v).faultPc = s.faultPc := rfl
@[simp] theorem State.setPc_faultInfo (v : Word) : (s.setPc v).faultInfo = s.faultInfo := rfl
@[simp] theorem State.setPc_mem (v : Word) : (s.setPc v).mem = s.mem := rfl
@[simp] theorem State.setPc_fb (v : Word) : (s.setPc v).fb = s.fb := rfl
@[simp] theorem State.setPc_redraw (v : Word) : (s.setPc v).redraw = s.redraw := rfl
@[simp] theorem State.setPc_key (v : Word) : (s.setPc v).key = s.key := rfl
@[simp] theorem State.setPc_cfg (v : Word) : (s.setPc v).cfg = s.cfg := rfl
@[simp] theorem State.setPc_draws (v : Word) : (s.setPc v).draws = s.draws := rfl
@[simp] theorem State.setPc_out (v : Word) : (s.setPc v).out = s.out := rfl

@[simp] theorem State.setDT_V (v : Byte) : (s.setDT v).V = s.V := rfl
@[simp] theorem State.setDT_pc (v : Byte) : (s.setDT v).pc = s.pc := rfl
@[simp] theorem State.setDT_I (v : Byte) : (s.setDT v).I = s.I := rfl
@[simp] theorem State.setDT_sp (v : Byte) : (s.setDT v).sp = s.sp := rfl
@[simp] theorem State.setDT_stack (v : Byte) : (s.setDT v).stack = s.stack := rfl
@[simp] theorem State.setDT_DT (v : Byte) : (s.setDT v).DT = v := rfl
@[simp] theorem State.setDT_ST (v : Byte) : (s.setDT v).ST = s.ST := rfl
@[simp] theorem State.setDT_run (v : Byte) : (s.setDT v).run = s.run := rfl
@[simp] theorem State.setDT_faultCause (v : Byte) : (s.setDT v).faultCause = s.faultCause := rfl
@[simp] theorem State.setDT_faultPc (v : Byte) : (s.setDT v).faultPc = s.faultPc := rfl
@[simp] theorem State.setDT_faultInfo (v : Byte) : (s.setDT v).faultInfo = s.faultInfo := rfl
@[simp] theorem State.setDT_mem (v : Byte) : (s.setDT v).mem = s.mem := rfl
@[simp] theorem State.setDT_fb (v : Byte) : (s.setDT v).fb = s.fb := rfl
@[simp] theorem State.setDT_redraw (v : Byte) : (s.setDT v).redraw = s.redraw := rfl
@[simp] theorem State.setDT_key (v : Byte) : (s.setDT v).key = s.key := rfl
@[simp] theorem State.setDT_cfg (v : Byte) : (s.setDT v).cfg = s.cfg := rfl
@[simp] theorem State.setDT_draws (v : Byte) : (s.setDT v).draws = s.draws := rfl
@[simp] theorem State.setDT_out (v : Byte) : (s.setDT v).out = s.out := rfl

@[simp] theorem State.setST_V (v : Byte) : (s.setST v).V = s.V := rfl
@[simp] theorem State.setST_pc (v : Byte) : (s.setST v).pc = s.pc := rfl
@[simp] theorem State.setST_I (v : Byte) : (s.setST v).I = s.I := rfl
@[simp] theorem State.setST_sp (v : Byte) : (s.setST v).sp = s.sp := rfl
@[simp] theorem State.setST_stack (v : Byte) : (s.setST v).stack = s.stack := rfl
@[simp] theorem State.setST_DT (v : Byte) : (s.setST v).DT = s.DT := rfl
@[simp] theorem State.setST_ST (v : Byte) : (s.setST v).ST = v := rfl
@[simp] theorem State.setST_run (v : Byte) : (s.setST v).run = s.run := rfl
@[simp] theorem State.setST_faultCause (v : Byte) : (s.setST v).faultCause = s.faultCause := rfl
@[simp] theorem State.setST_faultPc (v : Byte) : (s.setST v).faultPc = s.faultPc := rfl
@[simp] theorem State.setST_faultInfo (v : Byte) : (s.setST v).faultInfo = s.faultInfo := rfl
@[simp] theorem State.setST_mem (v : Byte) : (s.setST v).mem = s.mem := rfl
@[simp] theorem State.setST_fb (v : Byte) : (s.setST v).fb = s.fb := rfl
@[simp] theorem State.setST_redraw (v : Byte) : (s.setST v).redraw = s.redraw := rfl
@[simp] theorem State.setST_key (v : Byte) : (s.setST v).key = s.key := rfl
@[simp] theorem State.setST_cfg (v : Byte) : (s.setST v).cfg = s.cfg := rfl
@[simp] theorem State.setST_draws (v : Byte) : (s.setST v).draws = s.draws := rfl
@[simp] theorem State.setST_out (v : Byte) : (s.setST v).out = s.out := rfl

@[simp] theorem State.setMem_V (m : List Host.Cell) : (s.setMem m).V = s.V := rfl
@[simp] theorem State.setMem_pc (m : List Host.Cell) : (s.setMem m).pc = s.pc := rfl
@[simp] theorem State.setMem_I (m : List Host.Cell) : (s.setMem m).I = s.I := rfl
@[simp] theorem State.setMem_sp (m : List Host.Cell) : (s.setMem m).sp = s.sp := rfl
@[simp] theorem State.setMem_stack (m : List Host.Cell) : (s.setMem m).stack = s.stack := rfl
@[simp] theorem State.setMem_DT (m : List Host.Cell) : (s.setMem m).DT = s.DT := rfl
@[simp] theorem State.setMem_ST (m : List Host.Cell) : (s.setMem m).ST = s.ST := rfl
@[simp] theorem State.setMem_run (m : List Host.Cell) : (s.setMem m).run = s.run := rfl
@[simp] theorem State.setMem_faultCause (m : List Host.Cell) : (s.setMem m).faultCause = s.faultCause := rfl
@[simp] theorem State.setMem_faultPc (m : List Host.Cell) : (s.setMem m).faultPc = s.faultPc := rfl
@[simp] theorem State.setMem_faultInfo (m : List Host.Cell) : (s.setMem m).faultInfo = s.faultInfo := rfl
@[simp] theorem State.setMem_mem (m : List Host.Cell) : (s.setMem m).mem = m := rfl
@[simp] theorem State.setMem_fb (m : List Host.Cell) : (s.setMem m).fb = s.fb := rfl
@[simp] theorem State.setMem_redraw (m : List Host.Cell) : (s.setMem m).redraw = s.redraw := rfl
@[simp] theorem State.setMem_key (m : List Host.Cell) : (s.setMem m).key = s.key := rfl
@[simp] theorem State.setMem_cfg (m : List Host.Cell) : (s.setMem m).cfg = s.cfg := rfl
@[simp] theorem State.setMem_draws (m : List Host.Cell) : (s.setMem m).draws = s.draws := rfl
@[simp] theorem State.setMem_out (m : List Host.Cell) : (s.setMem m).out = s.out := rfl

@[simp] theorem State.setScreen_V (f : Screen) : (s.setScreen f).V = s.V := rfl
@[simp] theorem State.setScreen_pc (f : Screen) : (s.setScreen f).pc = s.pc := rfl
@[simp] theorem State.setScreen_I (f : Screen) : (s.setScreen f).I = s.I := rfl
@[simp] theorem State.setScreen_sp (f : Screen) : (s.setScreen f).sp = s.sp := rfl
@[simp] theorem State.setScreen_stack (f : Screen) : (s.setScreen f).stack = s.stack := rfl
@[simp] theorem State.setScreen_DT (f : Screen) : (s.setScreen f).DT = s.DT := rfl
@[simp] theorem State.setScreen_ST (f : Screen) : (s.setScreen f).ST = s.ST := rfl
@[simp] theorem State.setScreen_run (f : Screen) : (s.setScreen f).run = s.run := rfl
@[simp] theorem State.setScreen_faultCause (f : Screen) : (s.setScreen f).faultCause = s.faultCause := rfl
@[simp] theorem State.setScreen_faultPc (f : Screen) : (s.setScreen f).faultPc = s.faultPc := rfl
@[simp] theorem State.setScreen_faultInfo (f : Screen) : (s.setScreen f).faultInfo = s.faultInfo := rfl
@[simp] theorem State.setScreen_mem (f : Screen) : (s.setScreen f).mem = s.mem := rfl
@[simp] theorem State.setScreen_fb (f : Screen) : (s.setScreen f).fb = f := rfl
@[simp] theorem State.setScreen_redraw (f : Screen) : (s.setScreen f).redraw = true := rfl
@[simp] theorem State.setScreen_key (f : Screen) : (s.setScreen f).key = s.key := rfl
@[simp] theorem State.setScreen_cfg (f : Screen) : (s.setScreen f).cfg = s.cfg := rfl
@[simp] theorem State.setScreen_draws (f : Screen) : (s.setScreen f).draws = s.draws := rfl
@[simp] theorem State.setScreen_out (f : Screen) : (s.setScreen f).out = s.out := rfl

@[simp] theorem State.setStack_V (st : Vector Word 16) (p : Fin 17) : (s.setStack st p).V = s.V := rfl
@[simp] theorem State.setStack_pc (st : Vector Word 16) (p : Fin 17) : (s.setStack st p).pc = s.pc := rfl
@[simp] theorem State.setStack_I (st : Vector Word 16) (p : Fin 17) : (s.setStack st p).I = s.I := rfl
@[simp] theorem State.setStack_sp (st : Vector Word 16) (p : Fin 17) : (s.setStack st p).sp = p := rfl
@[simp] theorem State.setStack_stack (st : Vector Word 16) (p : Fin 17) : (s.setStack st p).stack = st := rfl
@[simp] theorem State.setStack_DT (st : Vector Word 16) (p : Fin 17) : (s.setStack st p).DT = s.DT := rfl
@[simp] theorem State.setStack_ST (st : Vector Word 16) (p : Fin 17) : (s.setStack st p).ST = s.ST := rfl
@[simp] theorem State.setStack_run (st : Vector Word 16) (p : Fin 17) : (s.setStack st p).run = s.run := rfl
@[simp] theorem State.setStack_faultCause (st : Vector Word 16) (p : Fin 17) : (s.setStack st p).faultCause = s.faultCause := rfl
@[simp] theorem State.setStack_faultPc (st : Vector Word 16) (p : Fin 17) : (s.setStack st p).faultPc = s.faultPc := rfl
@[simp] theorem State.setStack_faultInfo (st : Vector Word 16) (p : Fin 17) : (s.setStack st p).faultInfo = s.faultInfo := rfl
@[simp] theorem State.setStack_mem (st : Vector Word 16) (p : Fin 17) : (s.setStack st p).mem = s.mem := rfl
@[simp] theorem State.setStack_fb (st : Vector Word 16) (p : Fin 17) : (s.setStack st p).fb = s.fb := rfl
@[simp] theorem State.setStack_redraw (st : Vector Word 16) (p : Fin 17) : (s.setStack st p).redraw = s.redraw := rfl
@[simp] theorem State.setStack_key (st : Vector Word 16) (p : Fin 17) : (s.setStack st p).key = s.key := rfl
@[simp] theorem State.setStack_cfg (st : Vector Word 16) (p : Fin 17) : (s.setStack st p).cfg = s.cfg := rfl
@[simp] theorem State.setStack_draws (st : Vector Word 16) (p : Fin 17) : (s.setStack st p).draws = s.draws := rfl
@[simp] theorem State.setStack_out (st : Vector Word 16) (p : Fin 17) : (s.setStack st p).out = s.out := rfl

@[simp] theorem State.setOut_V (o : StepOutput) : (s.setOut o).V = s.V := rfl
@[simp] theorem State.setOut_pc (o : StepOutput) : (s.setOut o).pc = s.pc := rfl
@[simp] theorem State.setOut_I (o : StepOutput) : (s.setOut o).I = s.I := rfl
@[simp] theorem State.setOut_sp (o : StepOutput) : (s.setOut o).sp = s.sp := rfl
@[simp] theorem State.setOut_stack (o : StepOutput) : (s.setOut o).stack = s.stack := rfl
@[simp] theorem State.setOut_DT (o : StepOutput) : (s.setOut o).DT = s.DT := rfl
@[simp] theorem State.setOut_ST (o : StepOutput) : (s.setOut o).ST = s.ST := rfl
@[simp] theorem State.setOut_run (o : StepOutput) : (s.setOut o).run = s.run := rfl
@[simp] theorem State.setOut_faultCause (o : StepOutput) : (s.setOut o).faultCause = s.faultCause := rfl
@[simp] theorem State.setOut_faultPc (o : StepOutput) : (s.setOut o).faultPc = s.faultPc := rfl
@[simp] theorem State.setOut_faultInfo (o : StepOutput) : (s.setOut o).faultInfo = s.faultInfo := rfl
@[simp] theorem State.setOut_mem (o : StepOutput) : (s.setOut o).mem = s.mem := rfl
@[simp] theorem State.setOut_fb (o : StepOutput) : (s.setOut o).fb = s.fb := rfl
@[simp] theorem State.setOut_redraw (o : StepOutput) : (s.setOut o).redraw = s.redraw := rfl
@[simp] theorem State.setOut_key (o : StepOutput) : (s.setOut o).key = s.key := rfl
@[simp] theorem State.setOut_cfg (o : StepOutput) : (s.setOut o).cfg = s.cfg := rfl
@[simp] theorem State.setOut_draws (o : StepOutput) : (s.setOut o).draws = s.draws := rfl
@[simp] theorem State.setOut_out (o : StepOutput) : (s.setOut o).out = o := rfl

@[simp] theorem State.nextDraw_V : (s.nextDraw).V = s.V := rfl
@[simp] theorem State.nextDraw_pc : (s.nextDraw).pc = s.pc := rfl
@[simp] theorem State.nextDraw_I : (s.nextDraw).I = s.I := rfl
@[simp] theorem State.nextDraw_sp : (s.nextDraw).sp = s.sp := rfl
@[simp] theorem State.nextDraw_stack : (s.nextDraw).stack = s.stack := rfl
@[simp] theorem State.nextDraw_DT : (s.nextDraw).DT = s.DT := rfl
@[simp] theorem State.nextDraw_ST : (s.nextDraw).ST = s.ST := rfl
@[simp] theorem State.nextDraw_run : (s.nextDraw).run = s.run := rfl
@[simp] theorem State.nextDraw_faultCause : (s.nextDraw).faultCause = s.faultCause := rfl
@[simp] theorem State.nextDraw_faultPc : (s.nextDraw).faultPc = s.faultPc := rfl
@[simp] theorem State.nextDraw_faultInfo : (s.nextDraw).faultInfo = s.faultInfo := rfl
@[simp] theorem State.nextDraw_mem : (s.nextDraw).mem = s.mem := rfl
@[simp] theorem State.nextDraw_fb : (s.nextDraw).fb = s.fb := rfl
@[simp] theorem State.nextDraw_redraw : (s.nextDraw).redraw = s.redraw := rfl
@[simp] theorem State.nextDraw_key : (s.nextDraw).key = s.key := rfl
@[simp] theorem State.nextDraw_cfg : (s.nextDraw).cfg = s.cfg := rfl
@[simp] theorem State.nextDraw_draws : (s.nextDraw).draws = s.draws + 1 := rfl
@[simp] theorem State.nextDraw_out : (s.nextDraw).out = s.out := rfl

@[simp] theorem State.setV_V (i : Nibble) (v : Byte) : (s.setV i v).V = s.V.set i.toNat v i.isLt := rfl
@[simp] theorem State.setV_pc (i : Nibble) (v : Byte) : (s.setV i v).pc = s.pc := rfl
@[simp] theorem State.setV_I (i : Nibble) (v : Byte) : (s.setV i v).I = s.I := rfl
@[simp] theorem State.setV_sp (i : Nibble) (v : Byte) : (s.setV i v).sp = s.sp := rfl
@[simp] theorem State.setV_stack (i : Nibble) (v : Byte) : (s.setV i v).stack = s.stack := rfl
@[simp] theorem State.setV_DT (i : Nibble) (v : Byte) : (s.setV i v).DT = s.DT := rfl
@[simp] theorem State.setV_ST (i : Nibble) (v : Byte) : (s.setV i v).ST = s.ST := rfl
@[simp] theorem State.setV_run (i : Nibble) (v : Byte) : (s.setV i v).run = s.run := rfl
@[simp] theorem State.setV_faultCause (i : Nibble) (v : Byte) : (s.setV i v).faultCause = s.faultCause := rfl
@[simp] theorem State.setV_faultPc (i : Nibble) (v : Byte) : (s.setV i v).faultPc = s.faultPc := rfl
@[simp] theorem State.setV_faultInfo (i : Nibble) (v : Byte) : (s.setV i v).faultInfo = s.faultInfo := rfl
@[simp] theorem State.setV_mem (i : Nibble) (v : Byte) : (s.setV i v).mem = s.mem := rfl
@[simp] theorem State.setV_fb (i : Nibble) (v : Byte) : (s.setV i v).fb = s.fb := rfl
@[simp] theorem State.setV_redraw (i : Nibble) (v : Byte) : (s.setV i v).redraw = s.redraw := rfl
@[simp] theorem State.setV_key (i : Nibble) (v : Byte) : (s.setV i v).key = s.key := rfl
@[simp] theorem State.setV_cfg (i : Nibble) (v : Byte) : (s.setV i v).cfg = s.cfg := rfl
@[simp] theorem State.setV_draws (i : Nibble) (v : Byte) : (s.setV i v).draws = s.draws := rfl
@[simp] theorem State.setV_out (i : Nibble) (v : Byte) : (s.setV i v).out = s.out := rfl

@[simp] theorem State.loadV_V (bs : List Byte) : (s.loadV bs).V = fillRegs s.V 0 bs := rfl
@[simp] theorem State.loadV_pc (bs : List Byte) : (s.loadV bs).pc = s.pc := rfl
@[simp] theorem State.loadV_I (bs : List Byte) : (s.loadV bs).I = s.I := rfl
@[simp] theorem State.loadV_sp (bs : List Byte) : (s.loadV bs).sp = s.sp := rfl
@[simp] theorem State.loadV_stack (bs : List Byte) : (s.loadV bs).stack = s.stack := rfl
@[simp] theorem State.loadV_DT (bs : List Byte) : (s.loadV bs).DT = s.DT := rfl
@[simp] theorem State.loadV_ST (bs : List Byte) : (s.loadV bs).ST = s.ST := rfl
@[simp] theorem State.loadV_run (bs : List Byte) : (s.loadV bs).run = s.run := rfl
@[simp] theorem State.loadV_faultCause (bs : List Byte) : (s.loadV bs).faultCause = s.faultCause := rfl
@[simp] theorem State.loadV_faultPc (bs : List Byte) : (s.loadV bs).faultPc = s.faultPc := rfl
@[simp] theorem State.loadV_faultInfo (bs : List Byte) : (s.loadV bs).faultInfo = s.faultInfo := rfl
@[simp] theorem State.loadV_mem (bs : List Byte) : (s.loadV bs).mem = s.mem := rfl
@[simp] theorem State.loadV_fb (bs : List Byte) : (s.loadV bs).fb = s.fb := rfl
@[simp] theorem State.loadV_redraw (bs : List Byte) : (s.loadV bs).redraw = s.redraw := rfl
@[simp] theorem State.loadV_key (bs : List Byte) : (s.loadV bs).key = s.key := rfl
@[simp] theorem State.loadV_cfg (bs : List Byte) : (s.loadV bs).cfg = s.cfg := rfl
@[simp] theorem State.loadV_draws (bs : List Byte) : (s.loadV bs).draws = s.draws := rfl
@[simp] theorem State.loadV_out (bs : List Byte) : (s.loadV bs).out = s.out := rfl

@[simp] theorem State.raiseAt_V (pc0 : Word) (t : Trap) : (s.raiseAt pc0 t).V = s.V := rfl
@[simp] theorem State.raiseAt_pc (pc0 : Word) (t : Trap) : (s.raiseAt pc0 t).pc = pc0 := rfl
@[simp] theorem State.raiseAt_I (pc0 : Word) (t : Trap) : (s.raiseAt pc0 t).I = s.I := rfl
@[simp] theorem State.raiseAt_sp (pc0 : Word) (t : Trap) : (s.raiseAt pc0 t).sp = s.sp := rfl
@[simp] theorem State.raiseAt_stack (pc0 : Word) (t : Trap) : (s.raiseAt pc0 t).stack = s.stack := rfl
@[simp] theorem State.raiseAt_DT (pc0 : Word) (t : Trap) : (s.raiseAt pc0 t).DT = s.DT := rfl
@[simp] theorem State.raiseAt_ST (pc0 : Word) (t : Trap) : (s.raiseAt pc0 t).ST = s.ST := rfl
@[simp] theorem State.raiseAt_run (pc0 : Word) (t : Trap) : (s.raiseAt pc0 t).run = false := rfl
@[simp] theorem State.raiseAt_faultCause (pc0 : Word) (t : Trap) : (s.raiseAt pc0 t).faultCause = t.cause := rfl
@[simp] theorem State.raiseAt_faultPc (pc0 : Word) (t : Trap) : (s.raiseAt pc0 t).faultPc = pc0 := rfl
@[simp] theorem State.raiseAt_faultInfo (pc0 : Word) (t : Trap) : (s.raiseAt pc0 t).faultInfo = t.info := rfl
@[simp] theorem State.raiseAt_mem (pc0 : Word) (t : Trap) : (s.raiseAt pc0 t).mem = s.mem := rfl
@[simp] theorem State.raiseAt_fb (pc0 : Word) (t : Trap) : (s.raiseAt pc0 t).fb = s.fb := rfl
@[simp] theorem State.raiseAt_redraw (pc0 : Word) (t : Trap) : (s.raiseAt pc0 t).redraw = s.redraw := rfl
@[simp] theorem State.raiseAt_key (pc0 : Word) (t : Trap) : (s.raiseAt pc0 t).key = s.key := rfl
@[simp] theorem State.raiseAt_cfg (pc0 : Word) (t : Trap) : (s.raiseAt pc0 t).cfg = s.cfg := rfl
@[simp] theorem State.raiseAt_draws (pc0 : Word) (t : Trap) : (s.raiseAt pc0 t).draws = s.draws := rfl
@[simp] theorem State.raiseAt_out (pc0 : Word) (t : Trap) : (s.raiseAt pc0 t).out = {} := rfl

end Sys2Proof.Machine
end

