-- ==== Sys2Proof/Laws/Memory.lean ====
section
/-! SUPPORT. Main memory: a read after a write gives the value written and every other address reads as before
(spec/20_memory.md R53, R54, R59), and every operation keeps the canonical form. -/

namespace Sys2Proof.Machine

open Host

variable {font : Vector Byte 80}

/-- The addresses of a cell list strictly rise. -/
theorem Memory.wf_cons {c : Cell} {m : List Cell} :
    Memory.wf font (c :: m) = true ↔
      c.1 ≤ lastAddr ∧ c.2 ≠ Memory.unlisted font c.1 ∧ (∀ d ∈ m, c.1 < d.1) ∧
        Memory.wf font m = true := by
  simp [Memory.wf, and_assoc]

theorem Memory.mem_put {a : Nat} {v : Option Byte} {m : List Cell} {c : Cell}
    (h : c ∈ Memory.put a v m) : c ∈ m ∨ (c.1 = a ∧ v = some c.2) := by
  induction m with
  | nil => cases v <;> simp_all [Memory.put]
  | cons d m ih =>
    simp only [Memory.put] at h
    split at h
    · rcases List.mem_cons.mp h with h | h
      · simp [h]
      · rcases ih h with h | h <;> simp [h]
    · split at h <;> cases v <;> simp_all <;> grind

/-- Storing at one address keeps the canonical form. -/
theorem Memory.wf_put {a : Nat} {v : Option Byte} {m : List Cell} (ha : a ≤ lastAddr)
    (hv : ∀ b, v = some b → b ≠ Memory.unlisted font a) (hm : Memory.wf font m = true) :
    Memory.wf font (Memory.put a v m) = true := by
  induction m with
  | nil => cases v <;> simp_all [Memory.put, Memory.wf]
  | cons d m ih =>
    obtain ⟨h1, h2, h3, h4⟩ := Memory.wf_cons.mp hm
    simp only [Memory.put]
    split
    · refine Memory.wf_cons.mpr ⟨h1, h2, fun c hc => ?_, ih h4⟩
      rcases Memory.mem_put hc with hc | hc
      · exact h3 c hc
      · omega
    · split
      · cases v with
        | none => simpa using h4
        | some b => exact Memory.wf_cons.mpr ⟨ha, hv b rfl, fun c hc => by
          rename_i he
          have := h3 c (by simpa using hc)
          simp only; omega, h4⟩
      · cases v with
        | none => simpa using hm
        | some b =>
          refine Memory.wf_cons.mpr ⟨ha, hv b rfl, fun c hc => ?_, hm⟩
          rcases List.mem_cons.mp hc with rfl | hc
          · simp only; omega
          · have := h3 c hc; simp only; omega

/-- `mem[a] <- v` at an address that exists keeps the canonical form. -/
theorem Memory.wf_write {a : Nat} {v : Byte} {m : List Cell} (ha : a ≤ lastAddr)
    (hm : Memory.wf font m = true) : Memory.wf font (Memory.write font m a v) = true := by
  refine Memory.wf_put ha (fun b hb => ?_) hm
  split at hb <;> simp_all

theorem Memory.wf_writeAll {bs : List Byte} {a : Nat} {m : List Cell}
    (ha : bs = [] ∨ a + (bs.length - 1) ≤ lastAddr) (hm : Memory.wf font m = true) :
    Memory.wf font (Memory.writeAll font m a bs) = true := by
  induction bs generalizing a m with
  | nil => exact hm
  | cons b bs ih =>
    have ha : a + bs.length ≤ lastAddr := by simpa using ha
    refine ih ?_ (Memory.wf_write (by omega) hm)
    cases bs with
    | nil => exact .inl rfl
    | cons c cs => right; simp only [List.length_cons] at *; omega

theorem Memory.find_eq_none {a : Nat} {m : List Cell} (h : ∀ c ∈ m, a < c.1) : Memory.find m a = none := by
  induction m with
  | nil => rfl
  | cons d m ih =>
    have := h d (by simp)
    simp [Memory.find, show d.1 ≠ a by omega, ih fun c hc => h c (by simp [hc])]

/-- In canonical form, an address other than the one stored at is listed as before. -/
theorem Memory.find_put_ne {a b : Nat} {v : Option Byte} {m : List Cell} (h : b ≠ a) :
    Memory.find (Memory.put a v m) b = Memory.find m b := by
  induction m with
  | nil => cases v <;> simp [Memory.put, Memory.find, h.symm]
  | cons d m ih =>
    simp only [Memory.put]
    split
    · simp [Memory.find, ih]
    · split <;> cases v <;> simp [Memory.find, h.symm] <;> grind

theorem Memory.find_put_self {a : Nat} {v : Option Byte} {m : List Cell}
    (hm : Memory.wf font m = true) : Memory.find (Memory.put a v m) a = v := by
  induction m with
  | nil => cases v <;> simp [Memory.put, Memory.find]
  | cons d m ih =>
    obtain ⟨-, -, h3, h4⟩ := Memory.wf_cons.mp hm
    simp only [Memory.put]
    split
    · simp [Memory.find, show d.1 ≠ a by omega, ih h4]
    · split
      · cases v with
        | none => simpa using Memory.find_eq_none fun c hc => by have := h3 c hc; omega
        | some b => simp [Memory.find]
      · cases v with
        | none =>
          refine Memory.find_eq_none fun c hc => ?_
          simp only [Option.map_none, Option.toList_none, List.nil_append, List.mem_cons] at hc
          rcases hc with rfl | hc
          · simp only; omega
          · have := h3 c hc; omega
        | some b => simp [Memory.find]

/-- A read after a write: the value at the address written, everything else as before. -/
theorem Memory.read_write {a b : Nat} {v : Byte} {m : List Cell} (hm : Memory.wf font m = true) :
    Memory.read font (Memory.write font m a v) b = if b = a then v else Memory.read font m b := by
  split
  · next h => subst h; rw [Memory.read, Memory.write, Memory.find_put_self hm]; split <;> simp_all
  · next h => rw [Memory.read, Memory.write, Memory.find_put_ne h, Memory.read]

/-- A read at an address not written, whatever form the list is in. -/
theorem Memory.read_write_ne {a b : Nat} {v : Byte} {m : List Cell} (h : b ≠ a) :
    Memory.read font (Memory.write font m a v) b = Memory.read font m b := by
  rw [Memory.read, Memory.write, Memory.find_put_ne h, Memory.read]

theorem Memory.read_writeAll_outside {bs : List Byte} {a b : Nat} {m : List Cell}
    (h : b < a ∨ a + bs.length ≤ b) :
    Memory.read font (Memory.writeAll font m a bs) b = Memory.read font m b := by
  induction bs generalizing a m with
  | nil => rfl
  | cons c cs ih =>
    simp only [List.length_cons] at h
    rw [Memory.writeAll, ih (by omega), Memory.read_write_ne (by omega)]

/-- A read after a sequence of bytes is stored (R57). -/
theorem Memory.read_writeAll {bs : List Byte} {a b : Nat} {m : List Cell}
    (ha : bs = [] ∨ a + (bs.length - 1) ≤ lastAddr) (hm : Memory.wf font m = true) :
    Memory.read font (Memory.writeAll font m a bs) b =
      if h : a ≤ b ∧ b < a + bs.length then bs[b - a]'(by omega) else Memory.read font m b := by
  induction bs generalizing a m with
  | nil => simp [Memory.writeAll]
  | cons c cs ih =>
    have ha : a + cs.length ≤ lastAddr := by simpa using ha
    have h' : cs = [] ∨ a + 1 + (cs.length - 1) ≤ lastAddr := by
      cases cs with
      | nil => exact .inl rfl
      | cons d ds => right; simp only [List.length_cons] at *; omega
    rw [Memory.writeAll, ih h' (Memory.wf_write (by omega) hm), Memory.read_write hm]
    simp only [List.length_cons]
    grind

end Sys2Proof.Machine
end

