-- ==== Sys2Proof/Laws/Registers.lean ====
section
/-! SUPPORT. What the register operations of Machine/Ops.lean do: a read after a write, for `V[i]`
(spec/10_state.md R20) and for the loops of `Fx55` and `Fx65` (spec/45_index_memory.md R174, R175); and that
every other field update leaves `V[i]` and the bytes of memory alone. -/

namespace Sys2Proof.Machine

variable (s : State)

theorem State.getV_setV (i j : Nibble) (v : Byte) :
    (s.setV i v).getV j = if j = i then v else s.getV j := by
  unfold State.getV
  simp only [State.setV_V, Vector.getElem_set, BitVec.toNat_eq]
  by_cases h : j.toNat = i.toNat <;> simp [h, Ne.symm]

@[simp] theorem State.getV_setV_self (i : Nibble) (v : Byte) : (s.setV i v).getV i = v := by
  simp [State.getV_setV]

theorem State.getV_setV_ne {i j : Nibble} (h : j ≠ i) (v : Byte) : (s.setV i v).getV j = s.getV j := by
  simp [State.getV_setV, h]

theorem fillRegs_getElem (bs : List Byte) (V : Vector Byte 16) (i j : Nat) (hj : j < 16) :
    (fillRegs V i bs)[j] = if h : i ≤ j ∧ j < i + bs.length then bs[j - i]'(by omega) else V[j] := by
  induction bs generalizing V i with
  | nil => simp [fillRegs]
  | cons b bs ih =>
    rw [fillRegs, ih]
    simp only [List.length_cons, Vector.getElem_setIfInBounds]
    grind

/-- `V[j]` after the first `bs.length` registers are loaded. -/
theorem State.getV_loadV (bs : List Byte) (j : Nibble) :
    (s.loadV bs).getV j = if h : j.toNat < bs.length then bs[j.toNat] else s.getV j := by
  simp [State.getV, fillRegs_getElem]

theorem State.regsUpTo_length (x : Nibble) : (s.regsUpTo x).length = x.toNat + 1 := by
  have := x.isLt
  simp [State.regsUpTo]; omega

theorem State.regsUpTo_getElem (x : Nibble) (j : Nat) (h : j < (s.regsUpTo x).length) :
    (s.regsUpTo x)[j] = s.getV (BitVec.ofNat 4 j) := by
  have hx := x.isLt
  have hj : j < 16 := by rw [State.regsUpTo_length] at h; omega
  have hm : j % 16 = j := Nat.mod_eq_of_lt hj
  simp [State.regsUpTo, State.getV, hm]

/-! ### Fields that are not `V` -/

@[simp] theorem State.getV_setI (v : Word) (i : Nibble) : (s.setI v).getV i = s.getV i := rfl
@[simp] theorem State.getV_setPc (v : Word) (i : Nibble) : (s.setPc v).getV i = s.getV i := rfl
@[simp] theorem State.getV_setDT (v : Byte) (i : Nibble) : (s.setDT v).getV i = s.getV i := rfl
@[simp] theorem State.getV_setST (v : Byte) (i : Nibble) : (s.setST v).getV i = s.getV i := rfl
@[simp] theorem State.getV_setMem (m : List Host.Cell) (i : Nibble) : (s.setMem m).getV i = s.getV i := rfl
@[simp] theorem State.getV_setScreen (f : Screen) (i : Nibble) : (s.setScreen f).getV i = s.getV i := rfl
@[simp] theorem State.getV_setStack (st : Vector Word 16) (p : Fin 17) (i : Nibble) : (s.setStack st p).getV i = s.getV i := rfl
@[simp] theorem State.getV_setOut (o : StepOutput) (i : Nibble) : (s.setOut o).getV i = s.getV i := rfl
@[simp] theorem State.getV_nextDraw (i : Nibble) : (s.nextDraw).getV i = s.getV i := rfl
@[simp] theorem State.getV_raiseAt (pc0 : Word) (t : Trap) (i : Nibble) : (s.raiseAt pc0 t).getV i = s.getV i := rfl

/-! ### Fields that are not memory -/

@[simp] theorem State.peek_setI (v : Word) (k : Nat) : (s.setI v).peek k = s.peek k := rfl
@[simp] theorem State.peek_setPc (v : Word) (k : Nat) : (s.setPc v).peek k = s.peek k := rfl
@[simp] theorem State.peek_setDT (v : Byte) (k : Nat) : (s.setDT v).peek k = s.peek k := rfl
@[simp] theorem State.peek_setST (v : Byte) (k : Nat) : (s.setST v).peek k = s.peek k := rfl
@[simp] theorem State.peek_setScreen (f : Screen) (k : Nat) : (s.setScreen f).peek k = s.peek k := rfl
@[simp] theorem State.peek_setStack (st : Vector Word 16) (p : Fin 17) (k : Nat) : (s.setStack st p).peek k = s.peek k := rfl
@[simp] theorem State.peek_setOut (o : StepOutput) (k : Nat) : (s.setOut o).peek k = s.peek k := rfl
@[simp] theorem State.peek_nextDraw (k : Nat) : (s.nextDraw).peek k = s.peek k := rfl
@[simp] theorem State.peek_raiseAt (pc0 : Word) (t : Trap) (k : Nat) : (s.raiseAt pc0 t).peek k = s.peek k := rfl
@[simp] theorem State.peek_setV (i : Nibble) (v : Byte) (k : Nat) : (s.setV i v).peek k = s.peek k := rfl
@[simp] theorem State.peek_loadV (bs : List Byte) (k : Nat) : (s.loadV bs).peek k = s.peek k := rfl

end Sys2Proof.Machine
end

