-- ==== Sys2Proof/Laws/Ops.lean ====
section
/-! SUPPORT. What each shared operation of Machine/Ops.lean can do, said once. -/

namespace Sys2Proof.Machine

variable (s : State)

/-- An access does not fault exactly when it touches no address above 0xFFF (R53, R61). -/
theorem rangeFault_eq_none {base : Word} {len : Nat} :
    rangeFault base len = none ↔ len = 0 ∨ base.toNat + (len - 1) ≤ 0xFFF := by
  unfold rangeFault lastAddr
  split <;> simp <;> omega

/-- An access that touches an address above 0xFFF faults with the least such address, modulo 65536 (R221). -/
theorem rangeFault_eq_some {base : Word} {len : Nat} (h : 0 < len) (h' : 0xFFF < base.toNat + (len - 1)) :
    rangeFault base len = some ⟨.address, BitVec.ofNat 16 (max base.toNat 0x1000)⟩ := by
  simp [rangeFault, lastAddr, h, h']

/-- A byte of at most 0xF names the key it is (R201, R202). -/
theorem keyOperand_ok {v : Byte} (h : v.toNat < 16) : keyOperand v = .ok (v.setWidth 4) := by
  simp [keyOperand, Nat.not_le.mpr h]

/-- A byte above 0xF names no key (R226). -/
theorem keyOperand_error {v : Byte} (h : 0xF < v.toNat) :
    keyOperand v = .error ⟨.keyIndex, v.setWidth 16⟩ := by
  have : 16 ≤ v.toNat := h
  simp [keyOperand, this]

theorem State.bytesAt_length (base : Word) (len : Nat) : (s.bytesAt base len).length = len := by
  simp [State.bytesAt]

theorem State.bytesAt_getElem (base : Word) (len j : Nat) (h : j < (s.bytesAt base len).length) :
    (s.bytesAt base len)[j] = s.peek (base.toNat + j) := by
  simp [State.bytesAt]

/-- A store leaves every byte outside its range alone. -/
theorem State.peek_storeAt_outside {base : Word} {bytes : List Byte} {a : Nat}
    (h : a < base.toNat ∨ base.toNat + bytes.length ≤ a) : (s.storeAt base bytes).peek a = s.peek a :=
  Memory.read_writeAll_outside h

/-- A byte after a store into canonical memory. -/
theorem State.peek_storeAt {base : Word} {bytes : List Byte} {a : Nat}
    (hr : rangeFault base bytes.length = none) (hm : Memory.wf s.cfg.font s.mem = true) :
    (s.storeAt base bytes).peek a =
      if h : base.toNat ≤ a ∧ a < base.toNat + bytes.length then bytes[a - base.toNat]'(by omega)
      else s.peek a := by
  refine Memory.read_writeAll ?_ hm
  simpa [rangeFault_eq_none, lastAddr] using hr

/-- A store in range keeps memory in its canonical form. -/
theorem State.storeAt_wf {base : Word} {bytes : List Byte} (hr : rangeFault base bytes.length = none)
    (hm : Memory.wf s.cfg.font s.mem = true) :
    Memory.wf s.cfg.font (s.storeAt base bytes).mem = true := by
  refine Memory.wf_writeAll ?_ hm
  simpa [rangeFault_eq_none, lastAddr] using hr

/-- A push fails exactly on a full stack; else it writes the slot `sp` and raises `sp` (R123). -/
theorem State.push_eq (w : Word) :
    s.push w = if h : s.sp.val < 16 then
      some (s.setStack (s.stack.set s.sp.val w h) ⟨s.sp.val + 1, by omega⟩) else none := rfl

/-- A pop fails exactly on an empty stack; else it lowers `sp` and reads the slot it then names (R121). -/
theorem State.pop_eq :
    s.pop = if h : 0 < s.sp.val then
      some (s.stack[s.sp.val - 1]'(by omega), s.setStack s.stack ⟨s.sp.val - 1, by omega⟩)
    else none := rfl

theorem State.tick_eq : s.tick =
    { s with
      DT := countDown s.DT
      ST := countDown s.ST
      out := { s.out with beep := s.out.beep || s.ST == 1 } } := by
  unfold State.tick
  by_cases h : s.ST = 1#8
  · simp [h, State.setDT, State.setST, State.emitBeep, State.setOut]
  · have h' : (s.ST == 1#8) = false := by simpa using h
    simp [h, h', State.setDT, State.setST]

theorem countDown_toNat (c : Byte) : (countDown c).toNat = c.toNat - 1 := by
  unfold countDown
  split
  · next h => simp [h]
  · next h =>
    have : c.toNat ≠ 0 := fun h' => h (BitVec.eq_of_toNat_eq h')
    have := c.isLt
    rw [BitVec.toNat_sub]; simp; omega

/-- The fetch succeeds exactly up to `pc = 0xFFE` (R101). -/
theorem State.fetch_ok (h : s.pc.toNat ≤ 0xFFE) :
    s.fetch = .ok (wordOfBytes (s.peek s.pc.toNat) (s.peek (s.pc.toNat + 1))) := by
  have : rangeFault s.pc 2 = none := rangeFault_eq_none.mpr (by omega)
  simp [State.fetch, this]

theorem State.fetch_error (h : 0xFFE < s.pc.toNat) :
    s.fetch = .error ⟨.address, BitVec.ofNat 16 (max s.pc.toNat 0x1000)⟩ := by
  simp [State.fetch, rangeFault_eq_some (base := s.pc) (len := 2) (by omega) (by omega)]

/-- Everything a step can do, for a dispatch `ex`: nothing while halted; the fetch's fault; or the
dispatch's answer, finished. -/
theorem stepWith_next {ex : Instr → State → Outcome} {s t : State} (h : stepWith ex s = .next t) :
    (s.run = false ∧ t = s.setOut {}) ∨
    (s.run = true ∧ ∃ f, s.fetch = .error f ∧ t = s.raiseAt s.pc f) ∨
    (s.run = true ∧ ∃ w m, s.fetch = .ok w ∧ ex (decodeWord w) s.advance = .next m ∧ t = m.finish) := by
  unfold stepWith at h
  split at h
  · next hr =>
    split at h
    · next f hf => cases h; exact .inr (.inl ⟨hr, f, hf, rfl⟩)
    · next w hf =>
      split at h <;> cases h
      next m hm => exact .inr (.inr ⟨hr, w, m, hf, hm, rfl⟩)
  · next hr => cases h; exact .inl ⟨by simpa using hr, rfl⟩

/-- The word `placeWord` stores is the word the next step fetches. -/
theorem State.placeWord_run (w : Word) : (s.placeWord w).run = true := rfl

end Sys2Proof.Machine
end

