-- ==== Sys2Proof/Laws/PerInstr.lean ====
section
/-! SUPPORT. Facts about every instruction as syntax, one lemma per constructor. `OwnRow`: the word of a
well-formed instruction matches the mask and pattern that spec/30_encoding.md R84 gives its row. -/

namespace Sys2Proof.Laws.OwnRow

/-- The encoder's word is of the instruction's own row of R84. -/
def Statement (i : Instr) : Prop := i.wellFormed = true → rowMatches (opcodeRow i) (encode i) = true

theorem sys (nnn : Imm12) : Statement (.sys nnn) := by
  intro _; simp [rowMatches, opcodeRow, encode, and_F000]; decide

theorem cls (ign : Nibble) : Statement (.cls ign) := by
  intro _; simp [rowMatches, opcodeRow, encode, and_F0FF]; decide

theorem ret (ign : Nibble) : Statement (.ret ign) := by
  intro _; simp [rowMatches, opcodeRow, encode, and_F0FF]; decide

theorem jp (nnn : Imm12) : Statement (.jp nnn) := by
  intro _; simp [rowMatches, opcodeRow, encode, and_F000]; decide

theorem call (nnn : Imm12) : Statement (.call nnn) := by
  intro _; simp [rowMatches, opcodeRow, encode, and_F000]; decide

theorem seImm (x : Nibble) (kk : Byte) : Statement (.seImm x kk) := by
  intro _; simp [rowMatches, opcodeRow, encode, and_F000]; decide

theorem sneImm (x : Nibble) (kk : Byte) : Statement (.sneImm x kk) := by
  intro _; simp [rowMatches, opcodeRow, encode, and_F000]; decide

theorem seReg (x : Nibble) (y : Nibble) (ign : Nibble) : Statement (.seReg x y ign) := by
  intro _; simp [rowMatches, opcodeRow, encode, and_F000]; decide

theorem ldImm (x : Nibble) (kk : Byte) : Statement (.ldImm x kk) := by
  intro _; simp [rowMatches, opcodeRow, encode, and_F000]; decide

theorem addImm (x : Nibble) (kk : Byte) : Statement (.addImm x kk) := by
  intro _; simp [rowMatches, opcodeRow, encode, and_F000]; decide

theorem ldReg (x : Nibble) (y : Nibble) : Statement (.ldReg x y) := by
  intro _; simp [rowMatches, opcodeRow, encode, and_F00F]; decide

theorem orReg (x : Nibble) (y : Nibble) : Statement (.orReg x y) := by
  intro _; simp [rowMatches, opcodeRow, encode, and_F00F]; decide

theorem andReg (x : Nibble) (y : Nibble) : Statement (.andReg x y) := by
  intro _; simp [rowMatches, opcodeRow, encode, and_F00F]; decide

theorem xorReg (x : Nibble) (y : Nibble) : Statement (.xorReg x y) := by
  intro _; simp [rowMatches, opcodeRow, encode, and_F00F]; decide

theorem addReg (x : Nibble) (y : Nibble) : Statement (.addReg x y) := by
  intro _; simp [rowMatches, opcodeRow, encode, and_F00F]; decide

theorem subReg (x : Nibble) (y : Nibble) : Statement (.subReg x y) := by
  intro _; simp [rowMatches, opcodeRow, encode, and_F00F]; decide

theorem shrReg (x : Nibble) (y : Nibble) : Statement (.shrReg x y) := by
  intro _; simp [rowMatches, opcodeRow, encode, and_F00F]; decide

theorem subnReg (x : Nibble) (y : Nibble) : Statement (.subnReg x y) := by
  intro _; simp [rowMatches, opcodeRow, encode, and_F00F]; decide

theorem shlReg (x : Nibble) (y : Nibble) : Statement (.shlReg x y) := by
  intro _; simp [rowMatches, opcodeRow, encode, and_F00F]; decide

theorem sneReg (x : Nibble) (y : Nibble) (ign : Nibble) : Statement (.sneReg x y ign) := by
  intro _; simp [rowMatches, opcodeRow, encode, and_F000]; decide

theorem ldI (nnn : Imm12) : Statement (.ldI nnn) := by
  intro _; simp [rowMatches, opcodeRow, encode, and_F000]; decide

theorem jpV0 (nnn : Imm12) : Statement (.jpV0 nnn) := by
  intro _; simp [rowMatches, opcodeRow, encode, and_F000]; decide

theorem rnd (x : Nibble) (kk : Byte) : Statement (.rnd x kk) := by
  intro _; simp [rowMatches, opcodeRow, encode, and_F000]; decide

theorem drw (x : Nibble) (y : Nibble) (n : Nibble) : Statement (.drw x y n) := by
  intro _; simp [rowMatches, opcodeRow, encode, and_F000]; decide

theorem skp (x : Nibble) : Statement (.skp x) := by
  intro _; simp [rowMatches, opcodeRow, encode, and_F0FF]; decide

theorem sknp (x : Nibble) : Statement (.sknp x) := by
  intro _; simp [rowMatches, opcodeRow, encode, and_F0FF]; decide

theorem ldVxDT (x : Nibble) : Statement (.ldVxDT x) := by
  intro _; simp [rowMatches, opcodeRow, encode, and_F0FF]; decide

theorem ldVxK (x : Nibble) : Statement (.ldVxK x) := by
  intro _; simp [rowMatches, opcodeRow, encode, and_F0FF]; decide

theorem ldDTVx (x : Nibble) : Statement (.ldDTVx x) := by
  intro _; simp [rowMatches, opcodeRow, encode, and_F0FF]; decide

theorem ldSTVx (x : Nibble) : Statement (.ldSTVx x) := by
  intro _; simp [rowMatches, opcodeRow, encode, and_F0FF]; decide

theorem addI (x : Nibble) : Statement (.addI x) := by
  intro _; simp [rowMatches, opcodeRow, encode, and_F0FF]; decide

theorem ldF (x : Nibble) : Statement (.ldF x) := by
  intro _; simp [rowMatches, opcodeRow, encode, and_F0FF]; decide

theorem ldB (x : Nibble) : Statement (.ldB x) := by
  intro _; simp [rowMatches, opcodeRow, encode, and_F0FF]; decide

theorem storeRegs (x : Nibble) : Statement (.storeRegs x) := by
  intro _; simp [rowMatches, opcodeRow, encode, and_F0FF]; decide

theorem loadRegs (x : Nibble) : Statement (.loadRegs x) := by
  intro _; simp [rowMatches, opcodeRow, encode, and_F0FF]; decide

theorem illegal8 (x : Nibble) (y : Nibble) (n : Nibble) : Statement (.illegal8 x y n) := by
  intro _; simp [rowMatches, opcodeRow, encode, and_F000]; decide

theorem illegalE (x : Nibble) (kk : Byte) : Statement (.illegalE x kk) := by
  intro _; simp [rowMatches, opcodeRow, encode, and_F000]; decide

theorem illegalF (x : Nibble) (kk : Byte) : Statement (.illegalF x kk) := by
  intro _; simp [rowMatches, opcodeRow, encode, and_F000]; decide

end Sys2Proof.Laws.OwnRow
end

