-- ==== Sys2Proof/Laws/Sizes.lean ====
section
/-! SUPPORT. The sizes that the types of Word.lean and of `State` spell as numerals are the named constants of
Config.lean (spec/00_scope.md R5). -/

namespace Sys2Proof.Machine

/-- Every register file, the stack, the keyboard, the screen and the font have the size that R5 names, and
every register its width. -/
theorem State.sizes_are_those_of_R5 (s : State) :
    (s.V.size = numRegs ∧ s.stack.size = stackDepth ∧ s.key.size = numKeys ∧ s.fb.size = displayH ∧
      s.cfg.font.size = fontSize) ∧
    (Word = BitVec pcWidth ∧ Word = BitVec iWidth ∧ Byte = BitVec timerWidth ∧ ScreenRow = BitVec displayW) ∧
    s.framebuffer.length = displayW * displayH ∧ s.sp.val ≤ stackDepth := by
  refine ⟨⟨rfl, rfl, rfl, rfl, rfl⟩, ⟨rfl, rfl, rfl, rfl⟩, by simp [State.framebuffer], ?_⟩
  exact Nat.le_of_lt_succ s.sp.isLt

/-- The constants of memory fit together: the last address, the end of the longest program, the bytes of one
instruction. -/
theorem memory_sizes_agree :
    lastAddr + 1 = memSize ∧ programBase.toNat + maxProgramLen = memSize ∧
      ∀ i : Instr, (encodeBytes i).length = instrBytes :=
  ⟨rfl, rfl, fun _ => rfl⟩

/-- The font table lies at `fontBase` (R33): byte `j` of `FONT` is what the address `fontBase + j` reads as
until it is written. -/
theorem Memory.unlisted_font (font : Vector Byte 80) (j : Nat) (h : j < fontSize) :
    Memory.unlisted font (fontBase + j) = font[j]'h := by
  have h' : j < 80 := h
  rw [Memory.unlisted, show fontBase + j = j from Nat.zero_add j, Vector.getElem?_eq_getElem h']; rfl

end Sys2Proof.Machine
end

