-- ==== Sys2Proof/Tests/Slice0.lean ====
section
/-! SUPPORT. The model's own tests. Expected results are those of spec/95_test_vectors.md (the vector's id stands before
each test) or of the encodings of spec/30_encoding.md R84; each test runs one step. After them, for every
statement of Obligations.lean that has hypotheses, a concrete state and operands that meet them. -/

namespace Sys2Proof.Tests

open Sys2Proof.Machine

/-- The next state an outcome holds. -/
def nextState : Outcome → Option State
  | .next t => some t
  | .fault _ => none
  | .refused _ => none

/-- The reset state, changed by `f`, with the word `w` where the next step fetches. -/
def boot (w : Nat) (f : State → State) : State := (f State.reset).withFetchWord 16 w

/-- What one step of it leaves. -/
def after (w : Nat) (f : State → State) : Option State := nextState (step (boot w f))

/-- Two registers set. -/
def two (i : Nibble) (a : Byte) (j : Nibble) (b : Byte) (s : State) : State := (s.setV i a).setV j b

/-- `run` and the fault record, as the host reads them, and `pc`. -/
def record (t : State) : Bool × BitVec 3 × Word × Word × Word :=
  (t.run, faultCode t.faultCause, t.faultPc, t.faultInfo, t.pc)

/-! ## WellFormed refuses each ill-formed term -/

/-- R88: a SYS term whose low byte is CLS's or RET's. -/
theorem test_wellFormed_refuses_sys :
    (Instr.sys 0x0E0).wellFormed = false ∧ (Instr.sys 0x1EE).wellFormed = false := by decide

/-- R87: illegal-space terms whose secondary code is assigned. -/
theorem test_wellFormed_refuses_illegal :
    (Instr.illegal8 1 2 0xE).wellFormed = false ∧ (Instr.illegalE 1 0x9E).wellFormed = false ∧
      (Instr.illegalF 1 0x65).wellFormed = false := by decide

/-- R86: a non-canonical alias is well formed and not canonical. -/
theorem test_canonical_refuses_alias :
    (Instr.seReg 1 2 0xF).wellFormed = true ∧ (Instr.seReg 1 2 0xF).canonical = false := by decide

/-! ## Decoding, the words written out bit by bit from R84: op x y n -/

theorem test_decode_zero_family :
    decodeWord 0b0000_0001_0010_0011 = .sys 0x123 ∧
    decodeWord 0b0000_0000_1110_0000 = .cls 0 ∧
    decodeWord 0b0000_0011_1110_0000 = .cls 3 ∧
    decodeWord 0b0000_0000_1110_1110 = .ret 0 ∧
    decodeWord 0b0000_0101_1110_1110 = .ret 5 ∧
    decodeWord 0b0000_0000_0000_0000 = .sys 0 := by decide

theorem test_encode_zero_family :
    encode (.sys 0x123) = 0b0000_0001_0010_0011 ∧
    encode (.cls 0) = 0b0000_0000_1110_0000 ∧
    encode (.cls 3) = 0b0000_0011_1110_0000 ∧
    encode (.ret 0) = 0b0000_0000_1110_1110 ∧
    encode (.ret 5) = 0b0000_0101_1110_1110 ∧
    encode (.sys 0) = 0b0000_0000_0000_0000 := by decide

theorem test_decode_jumps :
    decodeWord 0b0001_1010_1011_1100 = .jp 0xABC ∧
    decodeWord 0b0010_1111_0000_0000 = .call 0xF00 ∧
    decodeWord 0b1011_0011_0000_0000 = .jpV0 0x300 := by decide

theorem test_encode_jumps :
    encode (.jp 0xABC) = 0b0001_1010_1011_1100 ∧
    encode (.call 0xF00) = 0b0010_1111_0000_0000 ∧
    encode (.jpV0 0x300) = 0b1011_0011_0000_0000 := by decide

theorem test_decode_skips :
    decodeWord 0b0011_1010_0100_0010 = .seImm 0xA 0x42 ∧
    decodeWord 0b0100_1010_0100_0010 = .sneImm 0xA 0x42 ∧
    decodeWord 0b0101_0001_0010_0000 = .seReg 1 2 0 ∧
    decodeWord 0b0101_0001_0010_1111 = .seReg 1 2 0xF ∧
    decodeWord 0b1001_0001_0010_0000 = .sneReg 1 2 0 := by decide

theorem test_encode_skips :
    encode (.seImm 0xA 0x42) = 0b0011_1010_0100_0010 ∧
    encode (.sneImm 0xA 0x42) = 0b0100_1010_0100_0010 ∧
    encode (.seReg 1 2 0) = 0b0101_0001_0010_0000 ∧
    encode (.seReg 1 2 0xF) = 0b0101_0001_0010_1111 ∧
    encode (.sneReg 1 2 0) = 0b1001_0001_0010_0000 := by decide

theorem test_decode_immediates :
    decodeWord 0b0110_1010_0011_0111 = .ldImm 0xA 0x37 ∧
    decodeWord 0b0111_1010_0000_0001 = .addImm 0xA 1 ∧
    decodeWord 0b1100_0011_0000_1111 = .rnd 3 0x0F ∧
    decodeWord 0b1010_0001_0010_0011 = .ldI 0x123 := by decide

theorem test_encode_immediates :
    encode (.ldImm 0xA 0x37) = 0b0110_1010_0011_0111 ∧
    encode (.addImm 0xA 1) = 0b0111_1010_0000_0001 ∧
    encode (.rnd 3 0x0F) = 0b1100_0011_0000_1111 ∧
    encode (.ldI 0x123) = 0b1010_0001_0010_0011 := by decide

theorem test_decode_alu_family :
    decodeWord 0b1000_0001_0010_0000 = .ldReg 1 2 ∧
    decodeWord 0b1000_0001_0010_0001 = .orReg 1 2 ∧
    decodeWord 0b1000_0001_0010_0010 = .andReg 1 2 ∧
    decodeWord 0b1000_0001_0010_0011 = .xorReg 1 2 ∧
    decodeWord 0b1000_0001_0010_0100 = .addReg 1 2 ∧
    decodeWord 0b1000_0001_0010_0101 = .subReg 1 2 ∧
    decodeWord 0b1000_0001_0010_0110 = .shrReg 1 2 ∧
    decodeWord 0b1000_0001_0010_0111 = .subnReg 1 2 ∧
    decodeWord 0b1000_0001_0010_1110 = .shlReg 1 2 ∧
    decodeWord 0b1000_0001_0010_1000 = .illegal8 1 2 8 := by decide

theorem test_encode_alu_family :
    encode (.ldReg 1 2) = 0b1000_0001_0010_0000 ∧
    encode (.orReg 1 2) = 0b1000_0001_0010_0001 ∧
    encode (.andReg 1 2) = 0b1000_0001_0010_0010 ∧
    encode (.xorReg 1 2) = 0b1000_0001_0010_0011 ∧
    encode (.addReg 1 2) = 0b1000_0001_0010_0100 ∧
    encode (.subReg 1 2) = 0b1000_0001_0010_0101 ∧
    encode (.shrReg 1 2) = 0b1000_0001_0010_0110 ∧
    encode (.subnReg 1 2) = 0b1000_0001_0010_0111 ∧
    encode (.shlReg 1 2) = 0b1000_0001_0010_1110 ∧
    encode (.illegal8 1 2 8) = 0b1000_0001_0010_1000 := by decide

theorem test_decode_display_and_keys :
    decodeWord 0b1101_0001_0010_0101 = .drw 1 2 5 ∧
    decodeWord 0b1110_0100_1001_1110 = .skp 4 ∧
    decodeWord 0b1110_0100_1010_0001 = .sknp 4 ∧
    decodeWord 0b1110_0001_1001_1111 = .illegalE 1 0x9F := by decide

theorem test_encode_display_and_keys :
    encode (.drw 1 2 5) = 0b1101_0001_0010_0101 ∧
    encode (.skp 4) = 0b1110_0100_1001_1110 ∧
    encode (.sknp 4) = 0b1110_0100_1010_0001 ∧
    encode (.illegalE 1 0x9F) = 0b1110_0001_1001_1111 := by decide

theorem test_decode_misc_family :
    decodeWord 0b1111_0010_0000_0111 = .ldVxDT 2 ∧
    decodeWord 0b1111_0011_0000_1010 = .ldVxK 3 ∧
    decodeWord 0b1111_0001_0001_0101 = .ldDTVx 1 ∧
    decodeWord 0b1111_0001_0001_1000 = .ldSTVx 1 ∧
    decodeWord 0b1111_0001_0001_1110 = .addI 1 ∧
    decodeWord 0b1111_0010_0010_1001 = .ldF 2 ∧
    decodeWord 0b1111_0011_0011_0011 = .ldB 3 ∧
    decodeWord 0b1111_0010_0101_0101 = .storeRegs 2 ∧
    decodeWord 0b1111_0010_0110_0101 = .loadRegs 2 ∧
    decodeWord 0b1111_0001_0111_0101 = .illegalF 1 0x75 := by decide

theorem test_encode_misc_family :
    encode (.ldVxDT 2) = 0b1111_0010_0000_0111 ∧
    encode (.ldVxK 3) = 0b1111_0011_0000_1010 ∧
    encode (.ldDTVx 1) = 0b1111_0001_0001_0101 ∧
    encode (.ldSTVx 1) = 0b1111_0001_0001_1000 ∧
    encode (.addI 1) = 0b1111_0001_0001_1110 ∧
    encode (.ldF 2) = 0b1111_0010_0010_1001 ∧
    encode (.ldB 3) = 0b1111_0011_0011_0011 ∧
    encode (.storeRegs 2) = 0b1111_0010_0101_0101 ∧
    encode (.loadRegs 2) = 0b1111_0010_0110_0101 ∧
    encode (.illegalF 1 0x75) = 0b1111_0001_0111_0101 := by decide

/-- R56: the byte at the lower address is the high byte. -/
theorem test_decode_bytes_big_endian :
    decodeBytes [0x12, 0x34, 0x77] = .ok (.jp 0x234, [0x77]) := rfl

/-- The table's numbering: bit 0 is the least significant bit of the word. -/
theorem test_decodeTableWord : decodeTableWord 16 0x8124 = some (.addReg 1 2) := by decide

/-! ## One step of each instruction -/

/-- V19. -/
theorem test_sys :
    (after 0x0123 id).map (fun t => (t.pc, t.out.diag)) = some ((0x202, some 0x123)) := by decide

/-- V77. -/
theorem test_cls :
    (after 0x03E0 (fun s => { s with fb := flipCell s.fb 5 0, redraw := false })).map (fun t => (cellByIndex t.fb 5, t.redraw)) = some ((false, true)) := by decide

/-- V20. -/
theorem test_ret :
    (after 0x00EE (fun s => s.setStack (s.stack.set 0 0x456) 1)).map (fun t => (t.pc, t.sp, t.stack[0])) = some ((0x456, 0, 0x456)) := by decide

/-- V21. -/
theorem test_ret_underflow :
    (after 0x00EE id).map (fun t => record t) = some ((false, 4, 0x200, 0, 0x200)) := by decide

/-- V23. -/
theorem test_jp :
    (after 0x1ABC id).map (fun t => t.pc) = some (0xABC) := by decide

/-- V26. -/
theorem test_call :
    (after 0x2300 (fun s => s.setStack s.stack 15)).map (fun t => (t.pc, t.sp, t.stack[15])) = some ((0x300, 16, 0x202)) := by decide

/-- V27. -/
theorem test_call_overflow :
    (after 0x2300 (fun s => s.setStack s.stack 16)).map (fun t => (record t, t.sp)) = some (((false, 3, 0x200, 0x300, 0x200), 16)) := by decide

/-- V30. -/
theorem test_seImm_equal :
    (after 0x3A42 (fun s => s.setV 0xA 0x42)).map (fun t => t.pc) = some (0x204) := by decide

/-- V31. -/
theorem test_seImm_differs :
    (after 0x3A42 (fun s => s.setV 0xA 0x43)).map (fun t => t.pc) = some (0x202) := by decide

/-- V33. -/
theorem test_sneImm :
    (after 0x4A42 (fun s => s.setV 0xA 0x43)).map (fun t => t.pc) = some (0x204) := by decide

/-- V36. -/
theorem test_seReg_alias :
    (after 0x512F (two 1 7 2 7)).map (fun t => t.pc) = some (0x204) := by decide

/-- V39. -/
theorem test_sneReg :
    (after 0x9120 (two 1 7 2 8)).map (fun t => t.pc) = some (0x204) := by decide

/-- V41. -/
theorem test_ldImm :
    (after 0x6A37 id).map (fun t => (t.getV 0xA, t.pc)) = some ((0x37, 0x202)) := by decide

/-- V43. -/
theorem test_addImm_wraps_without_flag :
    (after 0x7FFF (fun s => s.setV 0xF 2)).map (fun t => t.getV 0xF) = some (1) := by decide

/-- V47. -/
theorem test_ldReg :
    (after 0x8120 (two 1 1 2 0x9C)).map (fun t => t.getV 1) = some (0x9C) := by decide

/-- V48. -/
theorem test_orReg_keeps_flag :
    (after 0x8121 (fun s => two 1 0x0F 2 0xF0 (s.setV 0xF 0x55))).map (fun t => (t.getV 1, t.getV 0xF)) = some ((0xFF, 0x55)) := by decide

/-- V49. -/
theorem test_andReg :
    (after 0x8122 (two 1 0x3C 2 0x0F)).map (fun t => t.getV 1) = some (0x0C) := by decide

/-- V51. -/
theorem test_xorReg_self :
    (after 0x8113 (fun s => s.setV 1 0xAB)).map (fun t => t.getV 1) = some (0) := by decide

/-- V52. -/
theorem test_addReg_carry :
    (after 0x8124 (two 1 0xFF 2 1)).map (fun t => (t.getV 1, t.getV 0xF)) = some ((0, 1)) := by decide

/-- V55. -/
theorem test_addReg_flag_last :
    (after 0x8F24 (two 0xF 200 2 100)).map (fun t => t.getV 0xF) = some (1) := by decide

/-- V59. -/
theorem test_subReg_borrow :
    (after 0x8125 (two 1 0 2 1)).map (fun t => (t.getV 1, t.getV 0xF)) = some ((0xFF, 0)) := by decide

/-- V58. -/
theorem test_subReg_equal :
    (after 0x8125 (two 1 7 2 7)).map (fun t => (t.getV 1, t.getV 0xF)) = some ((0, 1)) := by decide

/-- V61. -/
theorem test_shrReg_in_place :
    (after 0x8126 (two 1 5 2 0xFF)).map (fun t => (t.getV 1, t.getV 0xF)) = some ((2, 1)) := by decide

/-- V65. -/
theorem test_shrReg_source_vy :
    (after 0x8126 (fun s => two 1 5 2 0xF0 { s with cfg := { s.cfg with shiftSourceVy := true } })).map (fun t => (t.getV 1, t.getV 0xF)) = some ((0x78, 0)) := by decide

/-- V67. -/
theorem test_subnReg :
    (after 0x8127 (two 1 7 2 5)).map (fun t => (t.getV 1, t.getV 0xF)) = some ((0xFE, 0)) := by decide

/-- V69. -/
theorem test_shlReg_raw_flag :
    (after 0x812E (fun s => s.setV 1 0xC1)).map (fun t => (t.getV 1, t.getV 0xF)) = some ((0x82, 0x80)) := by decide

/-- V70. -/
theorem test_shlReg_normal_flag :
    (after 0x812E (fun s => ({ s with cfg := { s.cfg with shlFlagRaw := false } }).setV 1 0xC1)).map (fun t => (t.getV 1, t.getV 0xF)) = some ((0x82, 1)) := by decide

/-- V114. -/
theorem test_ldI :
    (after 0xAFFF id).map (fun t => t.I) = some (0xFFF) := by decide

/-- V29. -/
theorem test_jpV0_unmasked :
    (after 0xBFFF (fun s => s.setV 0 0xFF)).map (fun t => t.pc) = some (0x10FE) := by decide

/-- V79. -/
theorem test_drw_wraps_columns :
    (after 0xD121 (fun s => (two 1 63 2 0 s).setI 0x300 |>.storeAt 0x300 [0xC0])).map (fun t => (cellByIndex t.fb 63, cellByIndex t.fb 0, cellByIndex t.fb 62, t.getV 0xF)) = some ((true, true, false, 0)) := by decide

/-- V93. -/
theorem test_drw_collision :
    (after 0xD1F1 (fun s => ({ two 1 10 0xF 3 s with fb := flipCell s.fb 10 3 }).setI 0x300 |>.storeAt 0x300 [0x80])).map (fun t => (cellByIndex t.fb 202, t.getV 0xF)) = some ((false, 1)) := by decide

/-- V90. -/
theorem test_drw_fault :
    (after 0xD12F (fun s => s.setI 0xFF2)).map (fun t => record t) = some ((false, 2, 0x200, 0x1000, 0x200)) := by decide

/-- V94. -/
theorem test_skp :
    (after 0xE19E (fun s => (s.setV 1 5).setKey 5 true)).map (fun t => t.pc) = some (0x204) := by decide

/-- V98. -/
theorem test_skp_no_such_key :
    (after 0xE19E (fun s => (s.setV 1 0x10).setKey 0 true)).map (fun t => record t) = some ((false, 6, 0x200, 0x10, 0x200)) := by decide

/-- V97. -/
theorem test_sknp :
    (after 0xE1A1 (fun s => s.setV 1 5)).map (fun t => t.pc) = some (0x204) := by decide

/-- V105. -/
theorem test_ldVxDT_before_tick :
    (after 0xF207 (fun s => s.setDT 5)).map (fun t => (t.getV 2, t.DT)) = some ((5, 4)) := by decide

/-- V100. -/
theorem test_ldVxK_waits_and_ticks :
    (after 0xF30A (fun s => (s.setDT 4).setST 1)).map (fun t => (t.pc, t.DT, t.ST, t.out.beep)) = some ((0x200, 3, 0, true)) := by decide

/-- V102. -/
theorem test_ldVxK_highest :
    (after 0xF30A (fun s => ((s.setKey 0 true).setKey 2 true).setKey 9 true)).map (fun t => (t.getV 3, t.pc)) = some ((9, 0x202)) := by decide

/-- V107. -/
theorem test_ldDTVx_ticked :
    (after 0xF115 (fun s => s.setV 1 3)).map (fun t => t.DT) = some (2) := by decide

/-- V111. -/
theorem test_ldSTVx_beeps :
    (after 0xF118 (fun s => s.setV 1 1)).map (fun t => (t.ST, t.out.beep)) = some ((0, true)) := by decide

/-- V112. -/
theorem test_ldSTVx_cancels :
    (after 0xF118 (fun s => s.setST 5)).map (fun t => (t.ST, t.out.beep)) = some ((0, false)) := by decide

/-- V117. -/
theorem test_addI_mod_65536 :
    (after 0xF11E (fun s => (s.setV 1 2).setI 0xFFFF)).map (fun t => t.I) = some (1) := by decide

/-- V122. -/
theorem test_ldF_unmasked :
    (after 0xF229 (fun s => s.setV 2 0xFF)).map (fun t => t.I) = some (0x4FB) := by decide

/-- V123. -/
theorem test_ldB :
    (after 0xF333 (fun s => (s.setV 3 254).setI 0x300)).map (fun t => (t.peek 0x300, t.peek 0x301, t.peek 0x302)) = some ((2, 5, 4)) := by decide

/-- V129. -/
theorem test_ldB_on_font :
    (after 0xF333 (fun s => s.setV 3 255)).map (fun t => (t.peek 0, t.peek 2, t.peek 3)) = some ((2, 5, 0x90)) := by decide

/-- V132. -/
theorem test_storeRegs :
    (after 0xF055 (fun s => (s.setV 0 0x99).setI 0xFFF)).map (fun t => (t.peek 0xFFF, t.I)) = some ((0x99, 0x1000)) := by decide

/-- V133. -/
theorem test_storeRegs_fault :
    (after 0xF155 (fun s => (two 0 0x99 1 0x88 s).setI 0xFFF)).map (fun t => (record t, t.peek 0xFFF)) = some (((false, 2, 0x200, 0x1000, 0x200), 0)) := by decide

/-- V138. -/
theorem test_loadRegs_own_word :
    (after 0xF165 (fun s => s.setI 0x200)).map (fun t => (t.getV 0, t.getV 1, t.I)) = some ((0xF1, 0x65, 0x202)) := by decide

/-- V140. -/
theorem test_loadRegs_fault :
    (after 0xF065 (fun s => s.setI 0xFFFF)).map (fun t => record t) = some ((false, 2, 0x200, 0xFFFF, 0x200)) := by decide

/-- V7. -/
theorem test_illegal8 :
    (after 0x8128 id).map (fun t => record t) = some ((false, 5, 0x200, 0x8128, 0x200)) := by decide

/-- V9. -/
theorem test_illegalE :
    (after 0xE19F id).map (fun t => record t) = some ((false, 5, 0x200, 0xE19F, 0x200)) := by decide

/-- V12. -/
theorem test_illegalF :
    (after 0xF175 id).map (fun t => record t) = some ((false, 5, 0x200, 0xF175, 0x200)) := by decide

/-- R142: whatever byte is drawn, here 0xA7 (V44). -/
theorem test_rnd_masks : (State.reset.drawInto 0xA7 3 0x0F).getV 3 = 0x07 := by decide

/-- V3: the fetch at 0xFFF reports the second byte's address. -/
theorem test_fetch_fault :
    (nextState (step (State.reset.setPc 0xFFF))).map record = some (false, 2, 0xFFF, 0x1000, 0xFFF) := by
  decide

/-- V14: a halted machine does nothing. -/
theorem test_halted :
    nextState (step (State.reset.raiseAt 0x200 ⟨.illegalInstruction, 0x8128⟩)) =
      some (State.reset.raiseAt 0x200 ⟨.illegalInstruction, 0x8128⟩) := by decide

/-! ## Host events -/

/-- V141, V145: an empty program is refused, an odd length is fine. -/
theorem test_load :
    record (State.reset.load []) = (false, 1, 0x200, 0, 0x200) ∧
      (State.reset.load [0x12, 0x00, 0x77]).peek 0x202 = 0x77 := by decide

/-- V147: reset erases the program and leaves the keys. -/
theorem test_reset_event :
    let t := ((State.reset.setKey 3 true).load [0x00, 0xEE]).resetEvent
    t.peek 0x201 = 0 ∧ t.key[3] = true ∧ t.run = true := by decide

/-- V149, V150. -/
theorem test_keys :
    State.reset.setKey 16 true = State.reset ∧ (State.reset.setKey 7 true).kbdReset = State.reset := by
  decide

/-! ## What the hypotheses of the statements are met by -/

theorem witness_DecodeReadsBackEveryEncodedInstruction :
    (Instr.sys 0xFFF).wellFormed = true ∧ (Instr.illegal8 0xF 0xF 0xF).wellFormed = true ∧
      (Instr.drw 0xF 0xF 0xF).wellFormed = true := by decide

theorem witness_DecoderFollowsTheOpcodeMap :
    rowMatches ⟨0xF000, 0x0000, 4⟩ 0x00E0 = true ∧ ⟨0xF000, 0x0000, 4⟩ ∈ opcodeRows ∧
      (⟨0xF000, 0x0000, 4⟩ : OpcodeRow) ≠ opcodeRow (decodeWord 0x00E0) := by decide

theorem witness_BytesDecodeBigEndian :
    (Instr.ret 0xF).wellFormed = true ∧ ([0xFF] : List Byte).length < 2 ∧ ([] : List Byte).length < 2 := by
  decide

/-- The unassigned codes at the ends of their ranges, and the assigned ones beside them. -/
theorem witness_UnassignedWordsRaiseIllegalInstruction :
    nField 0x8008 ∈ ([0x8, 0x9, 0xA, 0xB, 0xC, 0xD, 0xF] : List Nibble) ∧
      nField 0x8FFF ∈ ([0x8, 0x9, 0xA, 0xB, 0xC, 0xD, 0xF] : List Nibble) ∧
      nField 0x8007 ∉ ([0x8, 0x9, 0xA, 0xB, 0xC, 0xD, 0xF] : List Nibble) ∧
      nField 0x800E ∉ ([0x8, 0x9, 0xA, 0xB, 0xC, 0xD, 0xF] : List Nibble) ∧
      kkField 0xE09D ∉ ([0x9E, 0xA1] : List Byte) ∧ kkField 0xE09E ∈ ([0x9E, 0xA1] : List Byte) ∧
      kkField 0xF066 ∉ miscCodes ∧ kkField 0xF065 ∈ miscCodes ∧
      State.reset.faultCause ≠ .illegalInstruction := by decide

theorem witness_StepRunsTheDecodedInstruction :
    (State.reset.setPc 0xFFE).run = true ∧ (State.reset.setPc 0xFFE).pc.toNat ≤ 0xFFE ∧
      decodeWord (wordOfBytes ((State.reset.setPc 0xFFE).peek 0xFFE) ((State.reset.setPc 0xFFE).peek 0xFFF)) =
        .sys 0 := by decide

theorem witness_FetchBeyondMemoryFaults :
    (State.reset.setPc 0xFFF).run = true ∧ 0xFFE < (State.reset.setPc 0xFFF).pc.toNat ∧
      0xFFE < (State.reset.setPc 0x1000).pc.toNat := by decide

/-- Of `HaltedStepChangesNothing` and of `OnlyResetRevivesAHaltedMachine`. -/
theorem witness_halted_machine :
    (State.reset.raiseAt 0x200 ⟨.stackUnderflow, 0⟩).run = false ∧ HostEvent.kbdReset ≠ .reset ∧
      (nextState (step (State.reset.raiseAt 0x200 ⟨.stackUnderflow, 0⟩))).isSome = true := by decide

theorem witness_FaultsArePrecise :
    (boot 0x00EE id).run = true ∧ (after 0x00EE id).map (·.run) = some false := by decide

/-- Of `TickFollowsEveryCompletedStep`, `TimersCountCompletedSteps`, `DiagIsEmittedExactlyBySys` and
`WhereACompletedStepLeavesThePc`: a completed step of SYS, of the two timer writes, of a jump and of a skip. -/
theorem witness_completed_steps :
    (boot 0x0123 id).run = true ∧ (boot 0x0123 id).fetch.toOption = some 0x0123 ∧
      (nextState (exec (decodeWord 0x0123) (boot 0x0123 id).advance)).map (·.run) = some true ∧
      (after 0x0123 id).map (·.run) = some true ∧ (after 0xF115 id).map (·.run) = some true ∧
      (after 0xF118 id).map (·.run) = some true ∧ (after 0x1FFF id).map (·.run) = some true ∧
      (after 0xBFFF id).map (·.run) = some true ∧ (after 0x3000 id).map (·.run) = some true ∧
      (after 0x00EE (fun s => s.setStack s.stack 1)).map (·.run) = some true ∧
      (after 0xF00A id).map (·.run) = some true := by decide

theorem witness_StoresAreSeenByTheNextFetch :
    Memory.wf State.reset.cfg.font (State.reset.setPc 0xFFE).mem = true ∧
      (State.reset.setPc 0xFFE).pc.toNat ≤ 0xFFE := by decide

/-- One fault of each kind of `EachInstructionHasAtMostOneFault`. -/
theorem witness_EachInstructionHasAtMostOneFault :
    State.reset.run = true ∧
      (nextState (exec (.call 0) (State.reset.setStack State.reset.stack 16))).map (·.run) = some false ∧
      (nextState (exec (.ret 0) State.reset)).map (·.run) = some false ∧
      (nextState (exec (.skp 1) (State.reset.setV 1 0x10))).map (·.run) = some false ∧
      (nextState (exec (.drw 0 0 1) (State.reset.setI 0x1000))).map (·.run) = some false ∧
      (nextState (exec (.illegalE 0 0) State.reset)).map (·.run) = some false := by decide

/-- Of `StepKeepsTheInvariant` and `HostEventsKeepTheInvariant`: a state at the edges of the invariant's ranges, whose
step answers a next state. -/
theorem witness_invariant_at_its_edges :
    ({ State.reset with pc := 0x10FE, stack := Vector.replicate 16 0x1000 } : State).Inv ∧
      (nextState (step { State.reset with pc := 0x10FE, stack := Vector.replicate 16 0x1000 })).isSome = true := by
  refine ⟨⟨by decide, by decide, by decide, by decide, by decide, by decide⟩, by decide⟩

theorem witness_EveryReachableStateMeetsTheInvariant :
    Reachable Config.default (State.reset.load [0x12, 0x00]) :=
  Reachable.host (.load [0x12, 0x00]) Reachable.powerOn

theorem witness_FlagRegisterWriters :
    (nextState (exec (.addReg 0 1) (two 0 0xFF 1 1 State.reset))).map (·.getV 0xF) = some 1 ∧
      (two 0 0xFF 1 1 State.reset).getV 0xF = 0 ∧
      (nextState (exec (.ldImm 0xF 7) State.reset)).map (·.getV 0xF) = some 7 := by decide

theorem witness_StepsLeaveTheHostsStateAlone :
    (after 0x00E0 (fun s => { s with redraw := false })).map (·.redraw) = some true ∧
      (boot 0x00E0 (fun s => { s with redraw := false })).redraw = false ∧ (boot 0x6000 id).redraw = true := by
  decide

theorem witness_OnlyTwoInstructionsStore :
    (nextState (exec (.ldB 0) (State.reset.setI 0x300 |>.setV 0 7))).map (·.peek 0x302) = some 7 ∧
      (nextState (exec (.storeRegs 0) (State.reset.setI 0x300 |>.setV 0 7))).map (·.peek 0x300) = some 7 ∧
      State.reset.peek 0x302 = 0 ∧ State.reset.peek 0x300 = 0 := by decide

theorem witness_SysOnlyEmitsDiag :
    (0x0FFF : Word) &&& 0xF000 = 0x0000 ∧ kkField 0x0FFF ≠ 0xE0 ∧ kkField 0x0FFF ≠ 0xEE := by decide

/-- A word of every mask and pattern the statements' `DecodesAs` clauses name. -/
theorem witness_DecodesAs_words :
    (0x1FFF : Word) &&& 0xF000 = 0x1000 ∧ (0x2FFF : Word) &&& 0xF000 = 0x2000 ∧
      (0x3FFF : Word) &&& 0xF000 = 0x3000 ∧ (0x4FFF : Word) &&& 0xF000 = 0x4000 ∧
      (0x5FFF : Word) &&& 0xF000 = 0x5000 ∧ (0x6FFF : Word) &&& 0xF000 = 0x6000 ∧
      (0x7FFF : Word) &&& 0xF000 = 0x7000 ∧ (0x9FFF : Word) &&& 0xF000 = 0x9000 ∧
      (0xAFFF : Word) &&& 0xF000 = 0xA000 ∧ (0xBFFF : Word) &&& 0xF000 = 0xB000 ∧
      (0xCFFF : Word) &&& 0xF000 = 0xC000 ∧ (0xDFFF : Word) &&& 0xF000 = 0xD000 ∧
      (0x8FF0 : Word) &&& 0xF00F = 0x8000 ∧ (0x8FF1 : Word) &&& 0xF00F = 0x8001 ∧
      (0x8FF2 : Word) &&& 0xF00F = 0x8002 ∧ (0x8FF3 : Word) &&& 0xF00F = 0x8003 ∧
      (0x8FF4 : Word) &&& 0xF00F = 0x8004 ∧ (0x8FF5 : Word) &&& 0xF00F = 0x8005 ∧
      (0x8FF6 : Word) &&& 0xF00F = 0x8006 ∧ (0x8FF7 : Word) &&& 0xF00F = 0x8007 ∧
      (0x8FFE : Word) &&& 0xF00F = 0x800E ∧ (0x0FE0 : Word) &&& 0xF0FF = 0x00E0 ∧
      (0x0FEE : Word) &&& 0xF0FF = 0x00EE ∧ (0xEF9E : Word) &&& 0xF0FF = 0xE09E ∧
      (0xEFA1 : Word) &&& 0xF0FF = 0xE0A1 ∧ (0xFF07 : Word) &&& 0xF0FF = 0xF007 ∧
      (0xFF0A : Word) &&& 0xF0FF = 0xF00A ∧ (0xFF15 : Word) &&& 0xF0FF = 0xF015 ∧
      (0xFF18 : Word) &&& 0xF0FF = 0xF018 ∧ (0xFF1E : Word) &&& 0xF0FF = 0xF01E ∧
      (0xFF29 : Word) &&& 0xF0FF = 0xF029 ∧ (0xFF33 : Word) &&& 0xF0FF = 0xF033 ∧
      (0xFF55 : Word) &&& 0xF0FF = 0xF055 ∧ (0xFF65 : Word) &&& 0xF0FF = 0xF065 := by decide

/-- Of `CallPushesAndJumps`, `RetPopsIntoThePc` and `RetUndoesCall`: the edges of the stack. -/
theorem witness_stack_edges :
    (State.reset.setStack State.reset.stack 15).sp.val < 16 ∧
      (State.reset.setStack State.reset.stack 16).sp.val = 16 ∧
      0 < (State.reset.setStack State.reset.stack 1).sp.val ∧ State.reset.sp.val = 0 := by decide

/-- Of the five flag-writing statements: a destination that is not the flag register. -/
theorem witness_destination_not_flag : (0xE : Nibble) ≠ 0xF := by decide

theorem witness_BcdStoresThreeDigits :
    Memory.wf State.reset.cfg.font State.reset.mem = true ∧ (State.reset.setI 0xFFD).I.toNat + 2 ≤ 0xFFF ∧
      0xFFF < (State.reset.setI 0xFFE).I.toNat + 2 := by decide

/-- Of `StoreRegistersToMemory` and `LoadRegistersFromMemory`: the last legal and the first illegal `I`, and
the registers at both ends. -/
theorem witness_transfer_edges :
    Memory.wf State.reset.cfg.font State.reset.mem = true ∧
      (State.reset.setI 0xFF0).I.toNat + (0xF : Nibble).toNat ≤ 0xFFF ∧
      0xFFF < (State.reset.setI 0xFF1).I.toNat + (0xF : Nibble).toNat ∧
      (0 : Nibble) ≤ 0xF ∧ (0xF : Nibble) ≤ 0xF := by decide

theorem witness_StoreThenLoadRoundTrips :
    ∃ t r : State, Memory.wf State.reset.cfg.font (State.reset.setI 0x400).mem = true ∧
      (State.reset.setI 0x400).I.toNat + (2 : Nibble).toNat ≤ 0xFFF ∧
      exec (.storeRegs 2) (State.reset.setI 0x400) = .next t ∧ r.mem = t.mem ∧ r.cfg = t.cfg ∧
      r.I = (State.reset.setI 0x400).I ∧ r.getV 0 ≠ (State.reset.setI 0x400).getV 0 :=
  ⟨_, ((State.reset.setI 0x400).storeAt 0x400 [0, 0, 0]).setV 0 9, by decide, by decide, rfl, by decide,
    by decide, by decide, by decide⟩

/-- Of `StoreThenLoadRoundTrips`: a register above the transfer. -/
theorem witness_register_above_the_transfer : (2 : Nibble) < 3 := by decide

theorem witness_ClsClearsTheScreen : 2047 < 2048 := by decide

/-- Of `PlotterXorsTheCoveredCells` and `DrawingTwiceRestoresTheScreen`: fifteen rows, the last cell, a draw
without a collision, and a sprite with a set pixel. -/
theorem witness_plotter_edges :
    (List.replicate 15 (0xFF : Byte)).length ≤ 15 ∧ 63 < 64 ∧ 31 < 32 ∧
      (plotSprite blankScreen 60 30 [0xFF, 0x81, 0xFF]).collision = false ∧
      (plotSprite (plotSprite blankScreen 60 30 [0xFF, 0x81, 0xFF]).screen 60 30 [0xFF, 0x81, 0xFF]).collision =
        true := by decide

theorem witness_DrwDrawsTheSprite :
    (State.reset.setI 0xFF1).I.toNat + (0xF : Nibble).toNat - 1 ≤ 0xFFF ∧ (0xF : Nibble) ≠ 0 ∧
      0xFFF < (State.reset.setI 0xFF2).I.toNat + (0xF : Nibble).toNat - 1 ∧ (0 : Nibble) = 0 := by decide

theorem witness_KeySkips :
    ((State.reset.setV 1 0xF).getV 1).toNat < 16 ∧ 0xF < ((State.reset.setV 1 0x10).getV 1).toNat := by decide

/-- Of `KeyWaitTakesTheHighestKeyOrWaits` and `KeyScanPrefersTheHighestIndex`: two keys down, and none. -/
theorem witness_KeyWaitTakesTheHighestKeyOrWaits :
    ((State.reset.setKey 2 true).setKey 9 true).key[(9 : Nibble).toNat] = true ∧
      (∀ j : Nibble, 9 < j → ((State.reset.setKey 2 true).setKey 9 true).key[j.toNat] = false) ∧
      (∀ j : Nibble, State.reset.key[j.toNat] = false) := by decide

theorem witness_WaitingStepOnlyTicks :
    (boot 0xF30A id).run = true ∧ (boot 0xF30A id).fetch.toOption = some 0xF30A ∧
      decodeWord 0xF30A = .ldVxK 3 ∧ (∀ j : Fin 16, (boot 0xF30A id).key[j] = false) := by decide

/-- Programs of the least, the greatest and the two rejected lengths. -/
theorem witness_LoadWritesTheProgram :
    State.reset.run = true ∧ Memory.wf State.reset.cfg.font State.reset.mem = true ∧
      1 ≤ ([0] : List Byte).length ∧ (List.replicate 0xE00 (0 : Byte)).length ≤ 0xE00 ∧
      ([] : List Byte).length = 0 ∧ 0xE00 < (List.replicate 0xE01 (0 : Byte)).length ∧
      (State.reset.load []).run = false := by
  simp only [List.length_replicate]; decide

theorem witness_SmallHostEvents : 16 ≤ 16 ∧ 2047 < 2048 ∧ ¬(2048 < 2048) := by decide

theorem witness_EndedRunsOnlyTick : (boot 0x1200 id).ended = true := by decide

end Sys2Proof.Tests
end

section
/-! PROOFS. The access summary of spec/10_state.md R38: what the dispatch of an instruction may write, and the
statements of 10_state.md that follow from it. `Frame` is closed under every operation on a field that its `Writes`
list; `exec_dispatched` says once, for all instructions, what a dispatch can answer. -/

namespace Sys2Proof.Machine

/-! ## Frames: one rule per operation on the state -/

section Frames

variable {w : Writes} {s t : State}

theorem Frame.refl (w : Writes) (s : State) : Frame w s s := by constructor <;> intros <;> rfl

theorem Frame.setI (h : Frame w s t) (hw : w.index = true) (v : Word) : Frame w s (t.setI v) :=
  { h with index := by simp [hw] }

theorem Frame.setPc (h : Frame w s t) (hw : w.pc = true) (target : Word) : Frame w s (t.setPc target) :=
  { h with pc := by simp [hw] }

theorem Frame.skipIf (h : Frame w s t) (hw : w.pc = true) (c : Bool) : Frame w s (t.skipIf c) := by
  cases c
  · exact h
  · exact h.setPc hw _

theorem Frame.setDT (h : Frame w s t) (hw : w.delay = true) (v : Byte) : Frame w s (t.setDT v) :=
  { h with delay := by simp [hw] }

theorem Frame.setST (h : Frame w s t) (hw : w.sound = true) (v : Byte) : Frame w s (t.setST v) :=
  { h with sound := by simp [hw] }

theorem Frame.setScreen (h : Frame w s t) (hw : w.screen = true) (f : Screen) : Frame w s (t.setScreen f) :=
  { h with fb := by simp [hw], redraw := by simp [hw] }

theorem Frame.emitDiag (h : Frame w s t) (hw : w.diag = true) (d : Word) : Frame w s (t.emitDiag d) :=
  { h with diag := by simp [hw] }

theorem Frame.nextDraw (h : Frame w s t) (hw : w.draw = true) : Frame w s t.nextDraw :=
  { h with draws := by simp [hw] }

theorem Frame.setV (h : Frame w s t) {x : Nibble} (hw : x ∈ w.regs) (v : Byte) : Frame w s (t.setV x v) where
  __ := h
  regs r hr := by rw [State.getV_setV_ne _ (ne_of_mem_of_not_mem hw hr).symm, h.regs r hr]

theorem Frame.setResultAndFlag (h : Frame w s t) {x : Nibble} (hx : x ∈ w.regs) (hf : 0xF ∈ w.regs)
    (result flag : Byte) : Frame w s (t.setResultAndFlag x result flag) :=
  (h.setV hx result).setV hf flag

theorem Frame.loadV (h : Frame w s t) {bs : List Byte} (hw : ∀ r : Nibble, r.toNat < bs.length → r ∈ w.regs) :
    Frame w s (t.loadV bs) where
  __ := h
  regs r hr := by rw [State.getV_loadV, dif_neg (fun hlt => hr (hw r hlt)), h.regs r hr]

theorem Frame.storeAt (h : Frame w s t) {base : Word} {bs : List Byte}
    (hw : ∀ k < bs.length, base.toNat + k ∈ w.bytes) : Frame w s (t.storeAt base bs) where
  __ := h
  bytes a ha := by
    have outside : a < base.toNat ∨ base.toNat + bs.length ≤ a := by
      by_contra inside
      have := hw (a - base.toNat) (by omega)
      rw [show base.toNat + (a - base.toNat) = a by omega] at this
      exact ha this
    rw [State.peek_storeAt_outside _ outside, h.bytes a ha]

theorem Frame.setStack (h : Frame w s t) (hsp : w.sp = true) {st : Vector Word 16}
    (hst : ∀ j : Fin 16, j.val ∉ w.slots → st[j] = t.stack[j]) (p : Fin 17) : Frame w s (t.setStack st p) where
  __ := h
  sp := by simp [hsp]
  slots j hj := (hst j hj).trans (h.slots j hj)

end Frames

/-! ## Fault entries -/

/-- The fault entry of the dispatch phase is the one R227 describes. -/
theorem State.raise_faultEntry (s : State) (trap : Trap) : FaultEntry (s.pc - 2) trap s (s.raise trap) := by
  constructor <;> rfl

/-- A range check raises only AddressFault (R222). -/
theorem rangeFault_cause {base : Word} {len : Nat} {f : Trap} (h : rangeFault base len = some f) :
    f.cause = .address := by
  unfold rangeFault at h
  split at h
  · cases h; rfl
  · cases h

/-- Reading a key operand raises only KeyIndexFault (R226). -/
theorem keyOperand_cause {v : Byte} {f : Trap} (h : keyOperand v = .error f) : f.cause = .keyIndex := by
  unfold keyOperand at h
  split at h
  · cases h; rfl
  · cases h

/-! ## The access summary -/

/-- The W entries of the instruction's row of R38, for a dispatch on `s`. -/
def writesOf (s : State) : Instr → Writes
  | .sys _ => { diag := true }
  | .cls _ => { screen := true }
  | .ret _ => { sp := true, pc := true }
  | .call _ => { slots := [s.sp.val], sp := true, pc := true }
  | .jp _ | .jpV0 _ | .seImm _ _ | .sneImm _ _ | .seReg _ _ _ | .sneReg _ _ _ | .skp _ | .sknp _ => { pc := true }
  | .ldImm x _ | .addImm x _ | .ldReg x _ | .orReg x _ | .andReg x _ | .xorReg x _ | .ldVxDT x => { regs := [x] }
  | .addReg x _ | .subReg x _ | .shrReg x _ | .subnReg x _ | .shlReg x _ => { regs := [x, 0xF] }
  | .rnd x _ => { regs := [x], draw := true }
  | .drw _ _ _ => { regs := [0xF], screen := true }
  | .ldVxK x => { regs := [x], pc := true }
  | .ldDTVx _ => { delay := true }
  | .ldSTVx _ => { sound := true }
  | .ldI _ | .addI _ | .ldF _ => { index := true }
  | .ldB _ => { bytes := (List.range 3).map (s.I.toNat + ·) }
  | .storeRegs x => { bytes := (List.range (x.toNat + 1)).map (s.I.toNat + ·), index := true }
  | .loadRegs x => { regs := (List.range (x.toNat + 1)).map (BitVec.ofNat 4), index := true }
  | .illegal8 _ _ _ | .illegalE _ _ | .illegalF _ _ => {}

/-- The one fault an instruction can take, if any (R229). -/
def faultCauseOf : Instr → Option FaultCause
  | .call _ => some .stackOverflow
  | .ret _ => some .stackUnderflow
  | .skp _ | .sknp _ => some .keyIndex
  | .drw _ _ _ | .ldB _ | .storeRegs _ | .loadRegs _ => some .address
  | .illegal8 _ _ _ | .illegalE _ _ | .illegalF _ _ => some .illegalInstruction
  | _ => none

/-- What the dispatch of `i` on `s` can answer: a next state within the instruction's row of R38, or the entry of
the one fault R229 gives it. -/
inductive Dispatched (i : Instr) (s : State) : Outcome → Prop where
  | completes {t : State} (frame : Frame (writesOf s i) s t) : Dispatched i s (.next t)
  | faults {trap : Trap} (cause : faultCauseOf i = some trap.cause) : Dispatched i s (.next (s.raise trap))

/-- A register number up to `x` is in the list of the registers that `Fx65` writes, and no other is. -/
theorem mem_regsUpTo {x r : Nibble} : r ∈ (List.range (x.toNat + 1)).map (BitVec.ofNat 4) ↔ r ≤ x := by
  simp only [List.mem_map, List.mem_range, BitVec.le_def]
  constructor
  · rintro ⟨j, hj, rfl⟩
    exact (Nat.mod_le _ _).trans (Nat.le_of_lt_succ hj)
  · exact fun h => ⟨r.toNat, Nat.lt_succ_of_le h, by simp⟩

/-- Every instruction answers within its row of R38, or with its fault. -/
theorem exec_dispatched (i : Instr) (s : State) : Dispatched i s (exec i s) := by
  have same : Frame (writesOf s i) s s := Frame.refl _ s
  cases i with
  | sys nnn => exact .completes (same.emitDiag rfl _)
  | cls ign => exact .completes (same.setScreen rfl _)
  | ret ign =>
    simp only [exec, execRet, State.pop_eq]
    split
    · exact .faults rfl
    · next hp =>
      split at hp
      · cases hp; exact .completes ((same.setStack rfl (fun _ _ => rfl) _).setPc rfl _)
      · cases hp
  | jp | jpV0 => exact .completes (same.setPc rfl _)
  | call nnn =>
    simp only [exec, execCall, State.push_eq]
    split
    · exact .faults rfl
    · next hp =>
      split at hp
      · cases hp
        refine .completes ((same.setStack rfl (fun j hj => ?_) _).setPc rfl _)
        have : s.sp.val ≠ j.val := fun e => hj (by simp [writesOf, e])
        simp [this]
      · cases hp
  | seImm | sneImm | seReg | sneReg => exact .completes (same.skipIf rfl _)
  | ldImm | addImm | ldReg | orReg | andReg | xorReg | ldVxDT => exact .completes (same.setV (.head _) _)
  | addReg | subReg | shrReg | subnReg | shlReg =>
    exact .completes (same.setResultAndFlag (.head _) (.tail _ (.head _)) _ _)
  | ldI | addI | ldF => exact .completes (same.setI rfl _)
  | rnd x kk => exact .completes ((same.setV (.head _) _).nextDraw rfl)
  | drw x y n =>
    simp only [exec, execDrw]
    split
    · next hf => exact .faults (congrArg some (rangeFault_cause hf).symm)
    · exact .completes ((same.setScreen rfl _).setV (.head _) _)
  | skp x =>
    simp only [exec, execSkp]
    split
    · next hf => exact .faults (congrArg some (keyOperand_cause hf).symm)
    · exact .completes (same.skipIf rfl _)
  | sknp x =>
    simp only [exec, execSknp]
    split
    · next hf => exact .faults (congrArg some (keyOperand_cause hf).symm)
    · exact .completes (same.skipIf rfl _)
  | ldVxK x =>
    simp only [exec, execLdVxK]
    split
    · exact .completes (same.setPc rfl _)
    · exact .completes (same.setV (.head _) _)
  | ldDTVx x => exact .completes (same.setDT rfl _)
  | ldSTVx x => exact .completes (same.setST rfl _)
  | ldB x =>
    simp only [exec, execLdB]
    split
    · next hf => exact .faults (congrArg some (rangeFault_cause hf).symm)
    · exact .completes (same.storeAt fun k hk => List.mem_map_of_mem (List.mem_range.mpr hk))
  | storeRegs x =>
    simp only [exec, execStoreRegs]
    split
    · next hf => exact .faults (congrArg some (rangeFault_cause hf).symm)
    · refine .completes ((same.storeAt fun k hk => List.mem_map_of_mem (List.mem_range.mpr ?_)).setI rfl _)
      rwa [State.regsUpTo_length] at hk
  | loadRegs x =>
    simp only [exec, execLoadRegs]
    split
    · next hf => exact .faults (congrArg some (rangeFault_cause hf).symm)
    · refine .completes ((same.loadV fun r hr => mem_regsUpTo.mpr ?_).setI rfl _)
      rw [State.bytesAt_length] at hr
      exact Nat.le_of_lt_succ hr
  | illegal8 | illegalE | illegalF => exact .faults rfl

/-- A dispatch that answers `t` took the instruction's fault, or wrote only what its row of R38 lists. -/
theorem exec_next {i : Instr} {s t : State} (h : exec i s = .next t) :
    (∃ trap, faultCauseOf i = some trap.cause ∧ FaultEntry (s.pc - 2) trap s t) ∨ Frame (writesOf s i) s t := by
  have answer := exec_dispatched i s
  rw [h] at answer
  cases answer with
  | completes frame => exact .inr frame
  | faults cause => exact .inl ⟨_, cause, s.raise_faultEntry _⟩

/-- A register that a dispatch changes is in the instruction's row of R38. -/
theorem exec_changes_only_listed_regs {i : Instr} {s t : State} {r : Nibble} (h : exec i s = .next t)
    (hr : t.getV r ≠ s.getV r) : r ∈ (writesOf s i).regs := by
  obtain ⟨_, _, entry⟩ | frame := exec_next h
  · exact absurd (by simp [State.getV, entry.V]) hr
  · exact not_imp_comm.mp (frame.regs r) hr

/-- A byte of memory that a dispatch changes is in the instruction's row of R38. -/
theorem exec_changes_only_listed_bytes {i : Instr} {s t : State} {a : Nat} (h : exec i s = .next t)
    (ha : t.peek a ≠ s.peek a) : a ∈ (writesOf s i).bytes := by
  obtain ⟨_, _, entry⟩ | frame := exec_next h
  · exact absurd (by simp [State.peek, entry.mem, entry.cfg]) ha
  · exact not_imp_comm.mp (frame.bytes a) ha

/-- Only CLS and DRW have the framebuffer in their row of R38. -/
theorem writesOf_screen {i : Instr} {s : State} (h : (writesOf s i).screen = true) :
    (∃ ign, i = .cls ign) ∨ ∃ x y n, i = .drw x y n := by
  cases i with
  | cls ign => exact .inl ⟨ign, rfl⟩
  | drw x y n => exact .inr ⟨x, y, n, rfl⟩
  | _ => cases h

/-- What a dispatch does to the state the host owns: the keys and the configuration stay; so do the framebuffer and
`redraw`, unless the instruction is CLS or DRW, which sets `redraw` or faults. -/
theorem exec_host_state {i : Instr} {s t : State} (h : exec i s = .next t) :
    t.key = s.key ∧ t.cfg = s.cfg ∧
      ((t.fb = s.fb ∧ t.redraw = s.redraw) ∨
        (t.redraw = true ∧ ((∃ ign, i = .cls ign) ∨ ∃ x y n, i = .drw x y n))) := by
  obtain ⟨_, _, entry⟩ | frame := exec_next h
  · exact ⟨entry.key, entry.cfg, .inl ⟨entry.fb, entry.redraw⟩⟩
  refine ⟨frame.key, frame.cfg, ?_⟩
  cases hw : (writesOf s i).screen with
  | false => exact .inl ⟨frame.fb hw, frame.redraw hw⟩
  | true =>
    obtain ⟨ign, rfl⟩ | ⟨x, y, n, rfl⟩ := writesOf_screen hw
    · cases h; exact .inr ⟨rfl, .inl ⟨ign, rfl⟩⟩
    · simp only [exec, execDrw] at h
      split at h <;> cases h
      · exact .inl ⟨rfl, rfl⟩
      · exact .inr ⟨rfl, .inr ⟨x, y, n, rfl⟩⟩

/-! ## The phases around the dispatch -/

/-- The end of a step changes nothing but the timers and the events (R105). -/
theorem State.finish_eq (s : State) :
    s.finish = { s with DT := s.finish.DT, ST := s.finish.ST, out := s.finish.out } := by
  unfold State.finish
  split
  · rw [State.tick_eq]
  · rfl

@[simp] theorem State.finish_key (s : State) : s.finish.key = s.key := by rw [State.finish_eq]
@[simp] theorem State.finish_cfg (s : State) : s.finish.cfg = s.cfg := by rw [State.finish_eq]
@[simp] theorem State.finish_fb (s : State) : s.finish.fb = s.fb := by rw [State.finish_eq]
@[simp] theorem State.finish_redraw (s : State) : s.finish.redraw = s.redraw := by rw [State.finish_eq]

@[simp] theorem State.advance_key (s : State) : s.advance.key = s.key := rfl
@[simp] theorem State.advance_cfg (s : State) : s.advance.cfg = s.cfg := rfl
@[simp] theorem State.advance_fb (s : State) : s.advance.fb = s.fb := rfl
@[simp] theorem State.advance_redraw (s : State) : s.advance.redraw = s.redraw := rfl

/-- The fetch does not look at the events. -/
@[simp] theorem State.setOut_fetch (s : State) (o : StepOutput) : (s.setOut o).fetch = s.fetch := rfl

/-- The advance drops the events. -/
@[simp] theorem State.setOut_advance (s : State) (o : StepOutput) : (s.setOut o).advance = s.advance := rfl

/-- A fault entry drops the events (R227). -/
@[simp] theorem State.setOut_raiseAt (s : State) (o : StepOutput) (pc0 : Word) (trap : Trap) :
    (s.setOut o).raiseAt pc0 trap = s.raiseAt pc0 trap := rfl

@[simp] theorem State.setOut_setOut (s : State) (o o' : StepOutput) : (s.setOut o).setOut o' = s.setOut o' := rfl

/-- A step of any dispatch forgets the events of the step before it, on each of its three paths. -/
theorem stepWith_setOut (ex : Instr → State → Outcome) (s : State) (o : StepOutput) :
    stepWith ex (s.setOut o) = stepWith ex s := by
  cases running : s.run with
  | false => simp [stepWith, running]
  | true =>
    cases fetched : s.fetch with
    | error f => simp [stepWith, running, fetched]
    | ok w => simp only [stepWith, State.setOut_run, running, if_true, State.setOut_fetch, fetched,
        State.setOut_advance]

/-! ## The invariant at power-on -/

theorem State.powerOn_inv (cfg : Config) : (State.powerOn cfg).Inv where
  memory := rfl
  record := by simp [State.powerOn]
  clean _ := ⟨rfl, rfl⟩
  haltedAt halted := by cases halted
  pcRange := by simp [State.powerOn, programBase]
  stackRange j := by simp [State.powerOn]

/-! ## The statements -/

/-- Settles O24: the register is in the row of R38 of the instruction that changed it. -/
theorem flagRegisterWriters : Obligations.FlagRegisterWriters := by
  intro i s t h changed
  have listed := exec_changes_only_listed_regs h changed
  cases i with
  | addReg | subReg | shrReg | subnReg | shlReg | drw => trivial
  | ldImm x | addImm x | ldReg x | orReg x | andReg x | xorReg x | rnd x | ldVxDT x | ldVxK x =>
    exact (List.mem_singleton.mp listed).symm
  | loadRegs x =>
    have : 0xF ≤ x := mem_regsUpTo.mp listed
    bv_omega
  | _ => exact absurd listed List.not_mem_nil

/-- Settles O25, on the three paths of a step; the dispatch is `exec_host_state`. -/
theorem stepsLeaveTheHostsStateAlone : Obligations.StepsLeaveTheHostsStateAlone := by
  intro s t h
  obtain ⟨_, rfl⟩ | ⟨_, f, _, rfl⟩ | ⟨_, w, m, hw, hm, rfl⟩ := stepWith_next h
  · simp
  · simp
  obtain ⟨hkey, hcfg, ⟨hfb, hredraw⟩ | ⟨hredraw, drawn⟩⟩ := exec_host_state hm
  · simp [hkey, hcfg, hfb, hredraw]
  · exact ⟨by simpa using hkey, by simpa using hcfg, fun _ => by simpa using hredraw, fun _ => ⟨w, hw, drawn⟩⟩

/-- Settles O26: the byte is in the row of R38 of the instruction that changed it. -/
theorem onlyTwoInstructionsStore : Obligations.OnlyTwoInstructionsStore := by
  intro i s t a h changed
  have listed := exec_changes_only_listed_bytes h changed
  cases i with
  | ldB x =>
    obtain ⟨k, hk, rfl⟩ := List.mem_map.mp listed
    have := List.mem_range.mp hk
    exact .inl ⟨x, rfl, by omega, by omega⟩
  | storeRegs x =>
    obtain ⟨k, hk, rfl⟩ := List.mem_map.mp listed
    have := List.mem_range.mp hk
    exact .inr ⟨x, rfl, by omega, by omega⟩
  | _ => exact absurd listed List.not_mem_nil

/-- Settles O16: a step begins by dropping the events, whichever path it takes. -/
theorem eventsAreForgotten : Obligations.EventsAreForgotten :=
  fun s o => stepWith_setOut exec s o

/-- Settles O20: reset is power-on with the default configuration. -/
theorem powerOnMeetsTheInvariant : Obligations.PowerOnMeetsTheInvariant :=
  ⟨State.powerOn_inv, State.powerOn_inv Config.default⟩

end Sys2Proof.Machine
end

section
/-! PROOFS. Instruction-fetch coherence of spec/20_memory.md (R65): the fetch reads the bytes a store has just written,
with nothing between them. -/

namespace Sys2Proof.Machine

/-- Byte `k` of a sequence just stored is read back at `base + k` (R57). -/
theorem State.peek_storeAt_stored {s : State} {base : Word} {bytes : List Byte} {k : Nat} (hk : k < bytes.length)
    (hr : rangeFault base bytes.length = none) (hm : Memory.wf s.cfg.font s.mem = true) :
    (s.storeAt base bytes).peek (base.toNat + k) = bytes[k] := by
  rw [State.peek_storeAt s hr hm, dif_pos (by omega)]
  simp

/-- Settles O17: the fetch reads the two bytes at `pc`, and both are bytes of the store. -/
theorem storesAreSeenByTheNextFetch : Obligations.StoresAreSeenByTheNextFetch := by
  intro s hi lo hm hpc
  have inRange : rangeFault s.pc [hi, lo].length = none := rangeFault_eq_none.mpr (.inr (Nat.succ_le_succ hpc))
  have hiRead : (s.storeAt s.pc [hi, lo]).peek s.pc.toNat = hi :=
    State.peek_storeAt_stored (k := 0) (by simp) inRange hm
  have loRead : (s.storeAt s.pc [hi, lo]).peek (s.pc.toNat + 1) = lo :=
    State.peek_storeAt_stored (k := 1) (by simp) inRange hm
  calc (s.storeAt s.pc [hi, lo]).fetch
      = .ok (wordOfBytes ((s.storeAt s.pc [hi, lo]).peek s.pc.toNat)
          ((s.storeAt s.pc [hi, lo]).peek (s.pc.toNat + 1))) := State.fetch_ok _ hpc
    _ = .ok (wordOfBytes hi lo) := by rw [hiRead, loRead]

end Sys2Proof.Machine
end

section
/-! PROOFS. The instruction word of spec/30_encoding.md: the decoder and the encoder undo each other on well-formed
instructions, the decoder picks the most specific row of R84, and exactly the unassigned words of R87 take
IllegalInstruction (R225). -/

namespace Sys2Proof

/-! ## A word is built from its fields (R81) -/

theorem wordNNN_eq_iff {op : Nibble} {nnn : Imm12} {w : Word} :
    wordNNN op nnn = w ↔ opField w = op ∧ nnnField w = nnn :=
  ⟨by rintro rfl; simp, by rintro ⟨rfl, rfl⟩; simp⟩

theorem wordXKK_eq_iff {op x : Nibble} {kk : Byte} {w : Word} :
    wordXKK op x kk = w ↔ opField w = op ∧ xField w = x ∧ kkField w = kk :=
  ⟨by rintro rfl; simp, by rintro ⟨rfl, rfl, rfl⟩; simp⟩

theorem wordXYN_eq_iff {op x y n : Nibble} {w : Word} :
    wordXYN op x y n = w ↔ opField w = op ∧ xField w = x ∧ yField w = y ∧ nField w = n :=
  ⟨by rintro rfl; simp, by rintro ⟨rfl, rfl, rfl, rfl⟩; simp⟩

/-- The low byte of the address field is the low byte of the word. -/
@[simp] theorem extractLsb'_nnnField (w : Word) : (nnnField w).extractLsb' 0 8 = kkField w := by
  rw [← kkField_wordNNN (opField w), wordNNN_fields]

/-! ## The encoder undoes the decoder, family by family (R83) -/

/-- `i` is the well-formed instruction whose word is `w`. -/
def IsInstrOf (w : Word) (i : Instr) : Prop := i.wellFormed = true ∧ encode i = w

theorem decodeZero_isInstrOf {w : Word} (hop : opField w = 0x0) : IsInstrOf w (decodeZero w) := by
  unfold decodeZero
  split
  · next hkk => exact ⟨rfl, wordXKK_eq_iff.mpr ⟨hop, rfl, hkk⟩⟩
  · next hkk => exact ⟨rfl, wordXKK_eq_iff.mpr ⟨hop, rfl, hkk⟩⟩
  · next hE0 hEE => exact ⟨by simpa [Instr.wellFormed, zeroCodes] using ⟨hE0, hEE⟩, wordNNN_eq_iff.mpr ⟨hop, rfl⟩⟩

theorem decodeAlu_isInstrOf {w : Word} (hop : opField w = 0x8) : IsInstrOf w (decodeAlu w) := by
  unfold decodeAlu
  split
  case h_10 => refine ⟨?_, wordXYN_eq_iff.mpr ⟨hop, rfl, rfl, rfl⟩⟩; simp_all [Instr.wellFormed, aluCodes]
  all_goals next hn => exact ⟨rfl, wordXYN_eq_iff.mpr ⟨hop, rfl, rfl, hn⟩⟩

theorem decodeKey_isInstrOf {w : Word} (hop : opField w = 0xE) : IsInstrOf w (decodeKey w) := by
  unfold decodeKey
  split
  case h_3 => refine ⟨?_, wordXKK_eq_iff.mpr ⟨hop, rfl, rfl⟩⟩; simp_all [Instr.wellFormed, keyCodes]
  all_goals next hkk => exact ⟨rfl, wordXKK_eq_iff.mpr ⟨hop, rfl, hkk⟩⟩

theorem decodeMisc_isInstrOf {w : Word} (hop : opField w = 0xF) : IsInstrOf w (decodeMisc w) := by
  unfold decodeMisc
  split
  case h_10 => refine ⟨?_, wordXKK_eq_iff.mpr ⟨hop, rfl, rfl⟩⟩; simp_all [Instr.wellFormed, miscCodes]
  all_goals next hkk => exact ⟨rfl, wordXKK_eq_iff.mpr ⟨hop, rfl, hkk⟩⟩

/-- The instruction a word decodes to is the well-formed instruction whose word it is (R83). The cases are the
procedure's arms: the four families with a secondary code, then the three formats. -/
theorem decodeWord_isInstrOf (w : Word) : IsInstrOf w (decodeWord w) := by
  unfold decodeWord
  split
  case h_1 hop => exact decodeZero_isInstrOf hop
  case h_9 hop => exact decodeAlu_isInstrOf hop
  case h_15 hop => exact decodeKey_isInstrOf hop
  case h_16 => exact decodeMisc_isInstrOf (by simp only [imp_false] at *; bv_omega)
  case h_2 hop | h_3 hop | h_11 hop | h_12 hop => exact ⟨rfl, wordNNN_eq_iff.mpr ⟨hop, rfl⟩⟩
  case h_4 hop | h_5 hop | h_7 hop | h_8 hop | h_13 hop => exact ⟨rfl, wordXKK_eq_iff.mpr ⟨hop, rfl, rfl⟩⟩
  case h_6 hop | h_10 hop | h_14 hop => exact ⟨rfl, wordXYN_eq_iff.mpr ⟨hop, rfl, rfl, rfl⟩⟩

/-! ## The decoder undoes the encoder -/

theorem decodeZero_sys {w : Word} (h : kkField w ∉ zeroCodes) : decodeZero w = .sys (nnnField w) := by
  unfold decodeZero
  split
  case h_3 => rfl
  all_goals next hkk => exact absurd (by rw [hkk]; decide) h

theorem decodeAlu_illegal {w : Word} (h : nField w ∉ aluCodes) :
    decodeAlu w = .illegal8 (xField w) (yField w) (nField w) := by
  unfold decodeAlu
  split
  case h_10 => rfl
  all_goals next hn => exact absurd (by rw [hn]; decide) h

theorem decodeKey_illegal {w : Word} (h : kkField w ∉ keyCodes) :
    decodeKey w = .illegalE (xField w) (kkField w) := by
  unfold decodeKey
  split
  case h_3 => rfl
  all_goals next hkk => exact absurd (by rw [hkk]; decide) h

theorem decodeMisc_illegal {w : Word} (h : kkField w ∉ miscCodes) :
    decodeMisc w = .illegalF (xField w) (kkField w) := by
  unfold decodeMisc
  split
  case h_10 => rfl
  all_goals next hkk => exact absurd (by rw [hkk]; decide) h

/-- The decoder reads a well-formed instruction back from its word. -/
theorem decodeWord_encode {i : Instr} (h : i.wellFormed = true) : decodeWord (encode i) = i := by
  cases i with
  | sys nnn => simp_all [encode, decodeWord, decodeZero_sys, Instr.wellFormed]
  | illegal8 x y n => simp_all [encode, decodeWord, decodeAlu_illegal, Instr.wellFormed]
  | illegalE x kk => simp_all [encode, decodeWord, decodeKey_illegal, Instr.wellFormed]
  | illegalF x kk => simp_all [encode, decodeWord, decodeMisc_illegal, Instr.wellFormed]
  | cls | ret => simp [encode, decodeWord, decodeZero]
  | jp | call | ldI | jpV0 => simp [encode, decodeWord]
  | seImm | sneImm | seReg | sneReg | ldImm | addImm | rnd | drw => simp [encode, decodeWord]
  | ldReg | orReg | andReg | xorReg | addReg | subReg | shrReg | subnReg | shlReg =>
    simp [encode, decodeWord, decodeAlu]
  | skp | sknp => simp [encode, decodeWord, decodeKey]
  | ldVxDT | ldVxK | ldDTVx | ldSTVx | addI | ldF | ldB | storeRegs | loadRegs =>
    simp [encode, decodeWord, decodeMisc]

/-- A word decodes to `i` exactly when `i` is the well-formed instruction with that word. -/
theorem decodeWord_eq_iff {w : Word} {i : Instr} : decodeWord w = i ↔ IsInstrOf w i :=
  ⟨by rintro rfl; exact decodeWord_isInstrOf w, by rintro ⟨hwf, rfl⟩; exact decodeWord_encode hwf⟩

/-! ## The two bytes of a word (R56) -/

theorem wordOfBytes_toNat (hi lo : Byte) : (wordOfBytes hi lo).toNat = hi.toNat * 256 + lo.toNat := by
  rw [wordOfBytes, BitVec.toNat_append, ← Nat.shiftLeft_add_eq_or_of_lt lo.isLt, Nat.shiftLeft_eq]

theorem decodeBytes_encodeBytes {i : Instr} (h : i.wellFormed = true) (rest : List Byte) :
    decodeBytes (encodeBytes i ++ rest) = .ok (i, rest) := by
  simp [encodeBytes, decodeBytes, decodeWord_encode h]

theorem decodeBytes_short {bytes : List Byte} (h : bytes.length < 2) :
    decodeBytes bytes = .error .fewerThanTwoBytes := by
  match bytes, h with
  | [], _ | [_], _ => rfl

/-- Settles O5: an instruction's bytes are its word cut in two, and the word decodes to the instruction. -/
theorem bytesDecodeBigEndian : Obligations.BytesDecodeBigEndian :=
  ⟨fun _ rest h => decodeBytes_encodeBytes h rest, fun hi lo _ => ⟨wordOfBytes_toNat hi lo, rfl⟩,
    fun _ h => decodeBytes_short h⟩

/-! ## The rows of the opcode map (R84) -/

/-- The row of every instruction stands in the opcode map. -/
theorem opcodeRow_mem_opcodeRows (i : Instr) : opcodeRow i ∈ opcodeRows := by
  cases i <;> simp [opcodeRow, opcodeRows]

/-- The word of a well-formed instruction is of the instruction's own row. -/
theorem rowMatches_encode {i : Instr} : Laws.OwnRow.Statement i :=
  open Laws.OwnRow in
  match i with
  | .sys _ => sys _ | .cls _ => cls _ | .ret _ => ret _ | .jp _ => jp _ | .call _ => call _
  | .seImm _ _ => seImm _ _ | .sneImm _ _ => sneImm _ _ | .seReg _ _ _ => seReg _ _ _
  | .ldImm _ _ => ldImm _ _ | .addImm _ _ => addImm _ _ | .ldReg _ _ => ldReg _ _
  | .orReg _ _ => orReg _ _ | .andReg _ _ => andReg _ _ | .xorReg _ _ => xorReg _ _
  | .addReg _ _ => addReg _ _ | .subReg _ _ => subReg _ _ | .shrReg _ _ => shrReg _ _
  | .subnReg _ _ => subnReg _ _ | .shlReg _ _ => shlReg _ _ | .sneReg _ _ _ => sneReg _ _ _
  | .ldI _ => ldI _ | .jpV0 _ => jpV0 _ | .rnd _ _ => rnd _ _ | .drw _ _ _ => drw _ _ _
  | .skp _ => skp _ | .sknp _ => sknp _ | .ldVxDT _ => ldVxDT _ | .ldVxK _ => ldVxK _
  | .ldDTVx _ => ldDTVx _ | .ldSTVx _ => ldSTVx _ | .addI _ => addI _ | .ldF _ => ldF _ | .ldB _ => ldB _
  | .storeRegs _ => storeRegs _ | .loadRegs _ => loadRegs _ | .illegal8 _ _ _ => illegal8 _ _ _
  | .illegalE _ _ => illegalE _ _ | .illegalF _ _ => illegalF _ _

/-- A word is of the row of the instruction it decodes to. -/
theorem rowMatches_decodeWord (w : Word) : rowMatches (opcodeRow (decodeWord w)) w = true := by
  obtain ⟨hwf, henc⟩ := decodeWord_isInstrOf w
  simpa only [henc] using rowMatches_encode hwf

theorem decodeWord_of_alu {w : Word} (h : opField w = 0x8) : decodeWord w = decodeAlu w := by
  simp [decodeWord, h]

/-- The row a word decodes to depends on its top nibble and its secondary code alone: the bottom nibble in the `8`
family, the low byte in the others (R83). -/
theorem opcodeRow_decodeWord_congr {w v : Word} (hop : opField w = opField v)
    (hn : opField v = 0x8 → nField w = nField v) (hkk : opField v ≠ 0x8 → kkField w = kkField v) :
    opcodeRow (decodeWord w) = opcodeRow (decodeWord v) := by
  by_cases halu : opField v = 0x8
  · rw [decodeWord_of_alu (hop.trans halu), decodeWord_of_alu halu]
    simp only [decodeAlu, hn halu]
    split <;> rfl
  · simp only [decodeWord, hop, decodeZero, decodeKey, decodeMisc, hkk halu]
    split
    case h_9 => contradiction
    case h_1 | h_15 | h_16 => split <;> rfl
    all_goals rfl

/-- The rows of R84 with a secondary code: those of the `8` family have the mask of the bottom nibble, the others that
of the low byte; and the decoder takes the pattern of each to the row itself. -/
theorem secondaryRows : ∀ r ∈ opcodeRows, 4 < r.priority →
    (r.mask = 0xF00F#16 ∧ opField r.pattern = 0x8 ∨ r.mask = 0xF0FF#16 ∧ opField r.pattern ≠ 0x8) ∧
      opcodeRow (decodeWord r.pattern) = r := by
  decide

/-- The rows of R84 on the top nibble alone, the three fallback rows of R87 among them. -/
theorem primaryRows : ∀ r ∈ opcodeRows, r.priority ≤ 4 → r.mask = 0xF000 := by
  decide

/-- A row of R84 is known by its mask and its pattern. -/
theorem opcodeRows_inj : ∀ r ∈ opcodeRows, ∀ r' ∈ opcodeRows, r.mask = r'.mask → r.pattern = r'.pattern → r = r' := by
  decide

theorem rowMatches_iff {r : OpcodeRow} {w : Word} : rowMatches r w = true ↔ w &&& r.mask = r.pattern := beq_iff_eq

/-- A word of a row with a secondary code decodes to that row. -/
theorem opcodeRow_decodeWord_of_secondary {w : Word} {r : OpcodeRow} (hr : r ∈ opcodeRows) (hp : 4 < r.priority)
    (hm : rowMatches r w = true) : opcodeRow (decodeWord w) = r := by
  rw [rowMatches_iff] at hm
  obtain ⟨⟨hmask, hop⟩ | ⟨hmask, hop⟩, hpat⟩ := secondaryRows r hr hp
  · rw [hmask, and_F00F] at hm
    rw [← hpat]
    exact opcodeRow_decodeWord_congr (by simp [← hm]) (fun _ => by simp [← hm]) (fun h => absurd hop h)
  · rw [hmask, and_F0FF] at hm
    rw [← hpat]
    exact opcodeRow_decodeWord_congr (by simp [← hm]) (fun h => absurd h hop) (fun _ => by simp [← hm])

/-- Settles O4. A matching row with a secondary code is the decoder's row; a matching row without one is the only such
row, so that it is the decoder's row or the decoder's row has more mask bits. -/
theorem decoderFollowsTheOpcodeMap : Obligations.DecoderFollowsTheOpcodeMap := by
  intro w
  have hmem := opcodeRow_mem_opcodeRows (decodeWord w)
  have hown := rowMatches_decodeWord w
  refine ⟨hmem, hown, fun r hr hm hne => ?_⟩
  have hlow : r.priority ≤ 4 := Nat.le_of_not_lt fun hp => hne (opcodeRow_decodeWord_of_secondary hr hp hm).symm
  have hhigh : 4 < (opcodeRow (decodeWord w)).priority := by
    by_contra hnot
    have hmask : r.mask = (opcodeRow (decodeWord w)).mask := by
      rw [primaryRows r hr hlow, primaryRows _ hmem (Nat.le_of_not_lt hnot)]
    refine hne (opcodeRows_inj r hr _ hmem hmask ?_)
    rw [← rowMatches_iff.mp hm, ← rowMatches_iff.mp hown, hmask]
  exact Nat.lt_of_le_of_lt hlow hhigh

/-- Settles O1: the decoder runs on each of the words. -/
theorem sampleWordsDecodeAsTheSpecSays : Obligations.SampleWordsDecodeAsTheSpecSays := by
  unfold Obligations.SampleWordsDecodeAsTheSpecSays
  decide

end Sys2Proof

/-! ## The unassigned words (R87, R225) -/

namespace Sys2Proof.Machine

/-- An instruction whose fault is IllegalInstruction takes it in every state, with its own word as the detail. -/
theorem faults_of_illegal {i : Instr} (h : faultCauseOf i = some .illegalInstruction) (s : State) :
    Faults i s ⟨.illegalInstruction, encode i⟩ := by
  cases i with
  | illegal8 | illegalE | illegalF => exact ⟨_, rfl, s.raise_faultEntry _⟩
  | _ => cases h

/-- Any other instruction leaves another cause in the fault record, unless the record had this one before. -/
theorem exec_cause_ne_illegal {i : Instr} {s t : State} (h : exec i s = .next t)
    (hi : faultCauseOf i ≠ some .illegalInstruction) (hs : s.faultCause ≠ .illegalInstruction) :
    t.faultCause ≠ .illegalInstruction := by
  obtain ⟨trap, hcause, entry⟩ | frame := exec_next h
  · rw [entry.cause]
    exact fun he => hi (he ▸ hcause)
  · rwa [frame.cause]

/-- Every dispatch answers a next state. -/
theorem exec_answers_next (i : Instr) (s : State) : ∃ t, exec i s = .next t := by
  have answer := exec_dispatched i s
  generalize exec i s = o at answer
  cases answer with
  | completes => exact ⟨_, rfl⟩
  | faults => exact ⟨_, rfl⟩

/-- The words without an assigned secondary code in the `8`, `E` and `F` families (R87). -/
def Unassigned (w : Word) : Prop :=
  (opField w = 0x8 ∧ nField w ∉ aluCodes) ∨ (opField w = 0xE ∧ kkField w ∉ keyCodes) ∨
    (opField w = 0xF ∧ kkField w ∉ miscCodes)

/-- Exactly the unassigned words decode to an instruction whose fault is IllegalInstruction. -/
theorem faultCauseOf_decodeWord {w : Word} :
    faultCauseOf (decodeWord w) = some .illegalInstruction ↔ Unassigned w := by
  constructor
  · intro h
    obtain ⟨hwf, henc⟩ := decodeWord_isInstrOf w
    generalize decodeWord w = i at h hwf henc
    subst henc
    cases i with
    | illegal8 => exact .inl (by simpa [encode, Instr.wellFormed] using hwf)
    | illegalE => exact .inr (.inl (by simpa [encode, Instr.wellFormed] using hwf))
    | illegalF => exact .inr (.inr (by simpa [encode, Instr.wellFormed] using hwf))
    | _ => cases h
  · rintro (⟨hop, hn⟩ | ⟨hop, hkk⟩ | ⟨hop, hkk⟩)
    · simp [decodeWord, hop, decodeAlu_illegal hn, faultCauseOf]
    · simp [decodeWord, hop, decodeKey_illegal hkk, faultCauseOf]
    · simp [decodeWord, hop, decodeMisc_illegal hkk, faultCauseOf]

/-- The bottom nibbles R87 leaves unassigned are those R83 assigns to no instruction. -/
theorem mem_unassignedNibbles_iff : ∀ n : Nibble,
    n ∈ ([0x8, 0x9, 0xA, 0xB, 0xC, 0xD, 0xF] : List Nibble) ↔ n ∉ aluCodes := by
  decide

/-- Settles O6: the unassigned words are those of the illegal rows, and every dispatch answers a next state. -/
theorem unassignedWordsRaiseIllegalInstruction : Obligations.UnassignedWordsRaiseIllegalInstruction := by
  intro w s
  rw [mem_unassignedNibbles_iff]
  change (Unassigned w → _) ∧ (¬ Unassigned w → _)
  rw [← faultCauseOf_decodeWord]
  refine ⟨fun h => ?_, fun h hs => ?_⟩
  · simpa only [(decodeWord_isInstrOf w).2] using faults_of_illegal h s
  · obtain ⟨t, ht⟩ := exec_answers_next (decodeWord w) s
    exact ⟨t, ht, exec_cause_ne_illegal ht h hs⟩

/-- Settles O7: IllegalInstruction is the one fault of each of the three rows. -/
theorem illegalRowsFault : Obligations.IllegalRowsFault :=
  fun s _ _ _ _ => ⟨faults_of_illegal rfl s, faults_of_illegal rfl s, faults_of_illegal rfl s⟩

end Sys2Proof.Machine
end

section
/-! PROOFS. The step cycle of spec/40_step_cycle.md: the paths of a step (R100 to R108), the timer tick at its end
(R105), where the dispatch leaves `pc` (R109), and the invariant of every run. -/

namespace Sys2Proof.Machine

/-! ## The paths of a step -/

/-- A halted machine takes empty steps (R108). -/
theorem step_of_halted {s : State} (halted : s.run = false) : step s = .next (s.setOut {}) := by
  simp [step, stepWith, halted]

/-- A fetch out of range ends the step in its fault, at `pc` itself (R101, R107). -/
theorem step_of_fetch_error {s : State} {trap : Trap} (running : s.run = true) (fetched : s.fetch = .error trap) :
    step s = .next (s.raiseAt s.pc trap) := by
  simp [step, stepWith, running, fetched]

/-- Past the fetch, a step is the dispatch's answer, finished (R102, R103). -/
theorem step_of_dispatch {s m : State} {w : Word} (running : s.run = true) (fetched : s.fetch = .ok w)
    (dispatched : exec (decodeWord w) s.advance = .next m) : step s = .next m.finish := by
  simp [step, stepWith, running, fetched, dispatched]

theorem State.finish_of_running {s : State} (running : s.run = true) : s.finish = s.tick := by
  simp [State.finish, running]

@[simp] theorem State.finish_run (s : State) : s.finish.run = s.run := by rw [State.finish_eq]
@[simp] theorem State.finish_pc (s : State) : s.finish.pc = s.pc := by rw [State.finish_eq]

@[simp] theorem State.advance_pc (s : State) : s.advance.pc = s.pc + 2 := rfl
@[simp] theorem State.advance_sp (s : State) : s.advance.sp = s.sp := rfl
@[simp] theorem State.advance_stack (s : State) : s.advance.stack = s.stack := rfl
@[simp] theorem State.advance_DT (s : State) : s.advance.DT = s.DT := rfl
@[simp] theorem State.advance_ST (s : State) : s.advance.ST = s.ST := rfl
@[simp] theorem State.advance_run (s : State) : s.advance.run = s.run := rfl
@[simp] theorem State.advance_getV (s : State) (x : Nibble) : s.advance.getV x = s.getV x := rfl

/-- A dispatch that leaves `run` set took no fault: it wrote only what its row of R38 lists. -/
theorem exec_frame_of_running {i : Instr} {s t : State} (h : exec i s = .next t) (running : t.run = true) :
    Frame (writesOf s i) s t := by
  obtain ⟨_, _, entry⟩ | frame := exec_next h
  · exact absurd running (by simp [entry.run])
  · exact frame

/-- A step that fetches and completes is a dispatch that leaves `run` set, then the tick. -/
theorem step_completed {s t : State} {w : Word} (running : s.run = true) (fetched : s.fetch = .ok w)
    (h : step s = .next t) (completed : t.run = true) :
    ∃ m, exec (decodeWord w) s.advance = .next m ∧ m.run = true ∧ t = m.tick := by
  obtain ⟨m, dispatched⟩ := exec_answers_next (decodeWord w) s.advance
  rw [step_of_dispatch running fetched dispatched] at h
  cases h
  rw [State.finish_run] at completed
  exact ⟨m, dispatched, completed, State.finish_of_running completed⟩

/-! ## The timer tick -/

@[simp] theorem State.tick_DT (s : State) : s.tick.DT = countDown s.DT := by rw [State.tick_eq]
@[simp] theorem State.tick_ST (s : State) : s.tick.ST = countDown s.ST := by rw [State.tick_eq]
@[simp] theorem State.tick_pc (s : State) : s.tick.pc = s.pc := by rw [State.tick_eq]
theorem State.tick_beep (s : State) : s.tick.out.beep = (s.out.beep || s.ST == 1) := by rw [State.tick_eq]

/-! ## Where the dispatch leaves `pc` -/

/-- The values `p` that a dispatch of the instruction on `s` can leave in `pc` when it completes (R109). -/
def PcAfter (s : State) (p : Word) : Instr → Prop
  | .jp nnn | .call nnn => p = addrOperand nnn
  | .jpV0 nnn => p = addrOperand nnn + s.wideV 0
  | .ret _ => ∃ h : 0 < s.sp.val, p = s.stack[s.sp.val - 1]
  | .ldVxK _ => p = s.pc - 2 ∨ p = s.pc
  | .seImm _ _ | .sneImm _ _ | .seReg _ _ _ | .sneReg _ _ _ | .skp _ | .sknp _ => p = s.pc ∨ p = s.pc + 2
  | _ => p = s.pc

theorem State.skipIf_pc (s : State) (c : Bool) : (s.skipIf c).pc = s.pc ∨ (s.skipIf c).pc = s.pc + 2 := by
  cases c
  · exact .inl rfl
  · exact .inr rfl

theorem State.skipIf_mem (s : State) (c : Bool) : (s.skipIf c).mem = s.mem := by cases c <;> rfl

/-- A push that succeeds writes the slot `sp` and raises `sp` (R123). -/
theorem State.push_some {s t : State} {v : Word} (h : s.push v = some t) :
    ∃ (hsp : s.sp.val < 16), t = s.setStack (s.stack.set s.sp.val v) ⟨s.sp.val + 1, by omega⟩ := by
  rw [State.push_eq] at h
  split at h
  · next hsp => cases h; exact ⟨hsp, rfl⟩
  · cases h

/-- A pop that succeeds lowers `sp` and gives the slot it then names (R121). -/
theorem State.pop_some {s t : State} {v : Word} (h : s.pop = some (v, t)) :
    ∃ (hsp : 0 < s.sp.val), v = s.stack[s.sp.val - 1] ∧ t = s.setStack s.stack ⟨s.sp.val - 1, by omega⟩ := by
  rw [State.pop_eq] at h
  split at h
  · next hsp => cases h; exact ⟨hsp, rfl, rfl⟩
  · cases h

/-- A dispatch that completes leaves `pc` where R109 says. -/
theorem exec_pc {i : Instr} {s t : State} (h : exec i s = .next t) (running : t.run = true) :
    PcAfter s t.pc i := by
  have frame := exec_frame_of_running h running
  cases i with
  | jp | jpV0 => cases h; rfl
  | call nnn =>
    simp only [exec, execCall] at h
    split at h <;> cases h
    · cases running
    · rfl
  | ret ign =>
    simp only [exec, execRet] at h
    split at h
    · cases h; cases running
    · next popped =>
      obtain ⟨hsp, htop, _⟩ := State.pop_some popped
      cases h
      exact ⟨hsp, htop⟩
  | seImm | sneImm | seReg | sneReg => cases h; exact s.skipIf_pc _
  | skp x | sknp x =>
    simp only [exec, execSkp, execSknp] at h
    split at h <;> cases h
    · cases running
    · exact s.skipIf_pc _
  | ldVxK x =>
    simp only [exec, execLdVxK] at h
    split at h <;> cases h
    · exact .inl rfl
    · exact .inr rfl
  | _ => exact frame.pc rfl

theorem addrOperand_toNat (nnn : Imm12) : (addrOperand nnn).toNat = nnn.toNat := by
  have := nnn.isLt
  simp only [addrOperand, BitVec.toNat_setWidth]
  omega

theorem State.wideV_toNat (s : State) (x : Nibble) : (s.wideV x).toNat = (s.getV x).toNat := by
  have := (s.getV x).isLt
  simp only [State.wideV, BitVec.toNat_setWidth]
  omega

/-- The target of `Bnnn` does not wrap (R124). -/
theorem addrOperand_add_wideV_toNat (s : State) (nnn : Imm12) (x : Nibble) :
    (addrOperand nnn + s.wideV x).toNat = nnn.toNat + (s.getV x).toNat := by
  have := nnn.isLt
  have := (s.getV x).isLt
  rw [BitVec.toNat_add, addrOperand_toNat, State.wideV_toNat]
  omega

/-- After a dispatch from at most 0x1000 with return addresses at most 0x1000, `pc` is at most 0x10FE, the
greatest target of `Bnnn` (R109). -/
theorem PcAfter.le {i : Instr} {s : State} {p : Word} (h : PcAfter s p i) (hlow : 2 ≤ s.pc.toNat)
    (hpc : s.pc.toNat ≤ 0x1000) (hstack : ∀ j : Fin 16, s.stack[j].toNat ≤ 0x1000) : p.toNat ≤ 0x10FE := by
  cases i with
  | jp nnn | call nnn =>
    have := nnn.isLt
    rw [show p = addrOperand nnn from h, addrOperand_toNat]
    omega
  | jpV0 nnn =>
    have := nnn.isLt
    have := (s.getV 0).isLt
    rw [show p = addrOperand nnn + s.wideV 0 from h, addrOperand_add_wideV_toNat]
    omega
  | ret ign =>
    obtain ⟨hsp, rfl⟩ := h
    exact (hstack ⟨s.sp.val - 1, by omega⟩).trans (by decide)
  | ldVxK x => obtain rfl | rfl := h <;> bv_omega
  | seImm | sneImm | seReg | sneReg | skp | sknp => obtain rfl | rfl := h <;> bv_omega
  | _ =>
    rw [show p = s.pc from h]
    omega

/-! ## What the dispatch leaves in memory and on the stack -/

/-- A dispatch leaves the cells of memory alone, or stores bytes in range (R54, R228). -/
theorem exec_mem {i : Instr} {s t : State} (h : exec i s = .next t) :
    t.mem = s.mem ∨ ∃ base bytes, rangeFault base bytes.length = none ∧ t.mem = (s.storeAt base bytes).mem := by
  cases i with
  | ldB x =>
    simp only [exec, execLdB] at h
    split at h <;> cases h
    · exact .inl rfl
    · next inRange => exact .inr ⟨_, _, inRange, rfl⟩
  | storeRegs x =>
    simp only [exec, execStoreRegs] at h
    split at h <;> cases h
    · exact .inl rfl
    · next inRange => exact .inr ⟨_, _, by rwa [State.regsUpTo_length], rfl⟩
  | seImm | sneImm | seReg | sneReg => cases h; exact .inl (s.skipIf_mem _)
  | skp x | sknp x =>
    simp only [exec, execSkp, execSknp] at h
    split at h <;> cases h
    · exact .inl rfl
    · exact .inl (s.skipIf_mem _)
  | ret ign =>
    simp only [exec, execRet] at h
    split at h
    · cases h; exact .inl rfl
    · next popped =>
      obtain ⟨_, _, rfl⟩ := State.pop_some popped
      cases h
      exact .inl rfl
  | call nnn =>
    simp only [exec, execCall] at h
    split at h
    · cases h; exact .inl rfl
    · next pushed =>
      obtain ⟨_, rfl⟩ := State.push_some pushed
      cases h
      exact .inl rfl
  | drw | loadRegs | ldVxK =>
    simp only [exec, execDrw, execLoadRegs, execLdVxK] at h
    split at h <;> cases h <;> exact .inl rfl
  | _ => cases h; exact .inl rfl

/-- A dispatch keeps memory in its canonical form. -/
theorem exec_keeps_memory_wf {i : Instr} {s t : State} (h : exec i s = .next t)
    (hm : Memory.wf s.cfg.font s.mem = true) : Memory.wf t.cfg.font t.mem = true := by
  rw [(exec_host_state h).2.1]
  obtain same | ⟨base, bytes, inRange, stored⟩ := exec_mem h
  · rwa [same]
  · rw [stored]
    exact s.storeAt_wf inRange hm

/-- Only CALL has a slot of the stack in its row of R38. -/
theorem writesOf_slots {i : Instr} {s : State} {j : Nat} (h : j ∈ (writesOf s i).slots) : ∃ nnn, i = .call nnn := by
  cases i with
  | call nnn => exact ⟨nnn, rfl⟩
  | _ => cases h

/-- A slot of the stack is as it was after a dispatch, or holds the return address that CALL pushed (R123). -/
theorem exec_stack {i : Instr} {s t : State} (h : exec i s = .next t) (j : Fin 16) :
    t.stack[j] = s.stack[j] ∨ t.stack[j] = s.pc := by
  obtain ⟨_, _, entry⟩ | frame := exec_next h
  · exact .inl (by rw [entry.stack])
  by_cases listed : j.val ∈ (writesOf s i).slots
  · obtain ⟨nnn, rfl⟩ := writesOf_slots listed
    simp only [exec, execCall] at h
    split at h
    · cases h; exact .inl rfl
    · next pushed =>
      obtain ⟨hsp, rfl⟩ := State.push_some pushed
      cases h
      have : j.val = s.sp.val := List.mem_singleton.mp listed
      exact .inr (by simp [this])
  · exact .inl (frame.slots j listed)

/-! ## The invariant -/

/-- The invariant does not speak of the events. -/
theorem State.Inv.setOut {s : State} (hs : s.Inv) (o : StepOutput) : (s.setOut o).Inv := { hs with }

/-- The end of a step keeps the invariant: it writes only timers and events. -/
theorem State.Inv.finish {s : State} (hs : s.Inv) : s.finish.Inv := by
  rw [State.finish_eq]
  exact { hs with }

theorem State.raiseAt_faultEntry (s : State) (pc0 : Word) (trap : Trap) :
    FaultEntry pc0 trap s (s.raiseAt pc0 trap) := by
  constructor <;> rfl

/-- A fault of the dispatch phase is the fault entry of the whole step: the advance is undone (R107). -/
theorem FaultEntry.of_advance {s t : State} {trap : Trap}
    (entry : FaultEntry (s.advance.pc - 2) trap s.advance t) : FaultEntry s.pc trap s t := by
  rw [State.advance_pc, BitVec.add_sub_cancel] at entry
  exact { entry with }

/-- The fault entry of the instruction at `pc` keeps the invariant. -/
theorem FaultEntry.inv {s t : State} {trap : Trap} (entry : FaultEntry s.pc trap s t) (hs : s.Inv)
    (hcause : trap.cause ≠ .none) : t.Inv where
  memory := by rw [entry.cfg, entry.mem]; exact hs.memory
  record := by simp [entry.run, entry.cause, hcause]
  clean running := absurd running (by simp [entry.run])
  haltedAt _ := by rw [entry.pc, entry.faultPc]
  pcRange := by rw [entry.pc]; exact hs.pcRange
  stackRange := by rw [entry.stack]; exact hs.stackRange

/-- Every fault of a dispatch has a cause to record. -/
theorem faultCauseOf_ne_none {i : Instr} : faultCauseOf i ≠ some .none := by
  cases i <;> simp [faultCauseOf]

/-- The fetch succeeds only up to `pc = 0xFFE` (R101). -/
theorem State.pc_le_of_fetch_ok {s : State} {w : Word} (fetched : s.fetch = .ok w) : s.pc.toNat ≤ 0xFFE := by
  by_contra beyond
  rw [s.fetch_error (by omega)] at fetched
  cases fetched

theorem State.fetch_error_cause {s : State} {trap : Trap} (fetched : s.fetch = .error trap) :
    trap.cause = .address := by
  unfold State.fetch at fetched
  split at fetched
  · next hf => cases fetched; exact rangeFault_cause hf
  · cases fetched

/-- A dispatch that completes keeps the invariant of the state before the advance. -/
theorem State.Inv.of_completed {i : Instr} {s m : State} (hs : s.Inv) (running : s.run = true)
    (hpc : s.pc.toNat ≤ 0xFFE) (dispatched : exec i s.advance = .next m)
    (frame : Frame (writesOf s.advance i) s.advance m) : m.Inv := by
  have hrun : m.run = true := frame.run.trans running
  have hadvance : s.advance.pc.toNat = s.pc.toNat + 2 := by rw [State.advance_pc]; bv_omega
  constructor
  case memory => exact exec_keeps_memory_wf dispatched hs.memory
  case record => rw [frame.run, frame.cause]; exact hs.record
  case clean =>
    intro _
    rw [frame.faultPc, frame.faultInfo]
    exact hs.clean running
  case haltedAt =>
    intro halted
    exact absurd hrun (by simp [halted])
  case pcRange => exact (exec_pc dispatched hrun).le (by omega) (by omega) hs.stackRange
  case stackRange =>
    intro j
    obtain same | pushed := exec_stack dispatched j
    · rw [same]
      exact hs.stackRange j
    · rw [pushed]
      omega

/-! ## The statements -/

/-- Settles O21, on the paths of a step: halted, the fault of the fetch, the fault of the dispatch, completion. -/
theorem stepKeepsTheInvariant : Obligations.StepKeepsTheInvariant := by
  intro s t hs h
  obtain ⟨_, rfl⟩ | ⟨_, trap, fetched, rfl⟩ | ⟨running, w, m, fetched, dispatched, rfl⟩ := stepWith_next h
  · exact hs.setOut {}
  · exact (s.raiseAt_faultEntry s.pc trap).inv hs (by simp [State.fetch_error_cause fetched])
  · apply State.Inv.finish
    obtain ⟨trap, hcause, entry⟩ | frame := exec_next dispatched
    · exact entry.of_advance.inv hs fun none => faultCauseOf_ne_none (none ▸ hcause)
    · exact hs.of_completed running (State.pc_le_of_fetch_ok fetched) dispatched frame

/-- Settles O13: no instruction emits `beep`, so the tick alone decides it. -/
theorem tickFollowsEveryCompletedStep : Obligations.TickFollowsEveryCompletedStep := by
  intro s m w running fetched dispatched completed
  have silent : m.out.beep = false := (exec_frame_of_running dispatched completed).beep
  refine ⟨m.tick, ?_, ?_, ?_, ?_, ?_⟩
  · rw [step_of_dispatch running fetched dispatched, State.finish_of_running completed]
  · rw [State.tick_DT, countDown_toNat]
  · rw [State.tick_ST, countDown_toNat]
  · simp [State.tick_beep, silent]
  · rw [State.tick_eq]

/-- Settles O14: only `Fx15` and `Fx18` have a timer in their row of R38. -/
theorem timersCountCompletedSteps : Obligations.TimersCountCompletedSteps := by
  intro s t w running fetched h completed
  obtain ⟨m, dispatched, hrun, rfl⟩ := step_completed running fetched h completed
  have frame := exec_frame_of_running dispatched hrun
  simp only [State.tick_DT, State.tick_ST, countDown_toNat]
  generalize decodeWord w = i at dispatched frame
  cases i with
  | ldDTVx x => cases dispatched; exact ⟨rfl, rfl⟩
  | ldSTVx x => cases dispatched; exact ⟨rfl, rfl⟩
  | _ => exact ⟨by rw [frame.delay rfl]; rfl, by rw [frame.sound rfl]; rfl⟩

/-- Settles O19: the tick leaves `pc` where the dispatch put it, and the dispatch began two past the instruction. -/
theorem whereACompletedStepLeavesThePc : Obligations.WhereACompletedStepLeavesThePc := by
  intro s t w running fetched h completed
  obtain ⟨m, dispatched, hrun, rfl⟩ := step_completed running fetched h completed
  have after := exec_pc dispatched hrun
  rw [State.tick_pc]
  generalize decodeWord w = i at after
  generalize m.pc = p at after
  cases i with
  | jp nnn | call nnn => exact (congrArg BitVec.toNat after).trans (addrOperand_toNat nnn)
  | jpV0 nnn => exact (congrArg BitVec.toNat after).trans (addrOperand_add_wideV_toNat _ nnn 0)
  | ldVxK x => simpa [PcAfter] using after
  | seImm | sneImm | seReg | sneReg | skp | sknp => simpa [PcAfter, BitVec.add_assoc] using after
  | _ => exact after

/-- Settles O8: the dispatch answers a next state, and the tick runs while `run` is set. -/
theorem stepRunsTheDecodedInstruction : Obligations.StepRunsTheDecodedInstruction := by
  rintro s i running hpc rfl
  obtain ⟨m, dispatched⟩ := exec_answers_next
    (decodeWord (wordOfBytes (s.peek s.pc.toNat) (s.peek (s.pc.toNat + 1)))) s.advance
  rw [step_of_dispatch running (s.fetch_ok hpc) dispatched]
  change exec _ { s with pc := s.pc + 2, out := {} } = _ at dispatched
  rw [dispatched]
  rfl

/-- The detail of a fetch fault: the least address out of range (R221). -/
theorem fetch_fault_info {pc : Word} (h : 0xFFE < pc.toNat) :
    BitVec.ofNat 16 (max pc.toNat 0x1000) = if pc = 0xFFF then 0x1000 else pc := by
  split
  · next hpc => subst hpc; rfl
  · next hpc =>
    have : 0x1000 ≤ pc.toNat := by bv_omega
    rw [Nat.max_eq_left this, BitVec.ofNat_toNat, BitVec.setWidth_eq]

/-- Settles O9: the fetch fails on its second byte at 0xFFF, on its first above. -/
theorem fetchBeyondMemoryFaults : Obligations.FetchBeyondMemoryFaults := by
  intro s running beyond
  have fetched := s.fetch_error beyond
  rw [fetch_fault_info beyond] at fetched
  exact ⟨_, step_of_fetch_error running fetched, s.raiseAt_faultEntry _ _⟩

/-- Settles O10: emptying the events is all a halted step does. -/
theorem haltedStepChangesNothing : Obligations.HaltedStepChangesNothing :=
  fun _ halted => step_of_halted halted

end Sys2Proof.Machine
end

section
/-! PROOFS. Control flow of spec/41_flow.md (R120 to R124): the answers of CALL and RET on either side of the stack's
edges, and the words that the masks of R84 on the top nibble and on the low byte select. -/

namespace Sys2Proof.Machine

/-! ## The words of a row (R84) -/

theorem opField_of_mask_F000 {w pattern : Word} (masked : w &&& 0xF000 = pattern) : opField w = opField pattern := by
  rw [← masked, show w &&& 0xF000 = _ from and_F000 w, opField_wordNNN]

theorem opField_of_mask_F0FF {w pattern : Word} (masked : w &&& 0xF0FF = pattern) : opField w = opField pattern := by
  rw [← masked, show w &&& 0xF0FF = _ from and_F0FF w, opField_wordXKK]

theorem kkField_of_mask_F0FF {w pattern : Word} (masked : w &&& 0xF0FF = pattern) : kkField w = kkField pattern := by
  rw [← masked, show w &&& 0xF0FF = _ from and_F0FF w, kkField_wordXKK]

/-- The rows of the mask 0xF000 are decoded on the top nibble. -/
theorem decodesAs_of_opField {pattern : Word} {f : Word → Instr}
    (h : ∀ w, opField w = opField pattern → IsInstrOf w (f w)) : DecodesAs 0xF000 pattern f :=
  fun w masked => decodeWord_eq_iff.mpr (h w (opField_of_mask_F000 masked))

/-- The rows of the mask 0xF0FF are decoded on the top nibble and the low byte. -/
theorem decodesAs_of_opField_of_kkField {pattern : Word} {f : Word → Instr}
    (h : ∀ w, opField w = opField pattern → kkField w = kkField pattern → IsInstrOf w (f w)) :
    DecodesAs 0xF0FF pattern f :=
  fun w masked => decodeWord_eq_iff.mpr (h w (opField_of_mask_F0FF masked) (kkField_of_mask_F0FF masked))

/-! ## CALL and RET at the edges of the stack (R121, R123) -/

section Stack

variable {s : State}

theorem exec_call_of_lt (nnn : Imm12) (h : s.sp.val < 16) :
    exec (.call nnn) s =
      .next ((s.setStack (s.stack.set s.sp.val s.pc) ⟨s.sp.val + 1, by omega⟩).setPc (addrOperand nnn)) := by
  simp [exec, execCall, State.push_eq, h]

theorem exec_call_of_full (nnn : Imm12) (h : s.sp.val = 16) :
    exec (.call nnn) s = .next (s.raise ⟨.stackOverflow, addrOperand nnn⟩) := by
  simp [exec, execCall, State.push_eq, h]

theorem exec_ret_of_pos (ign : Nibble) (h : 0 < s.sp.val) :
    exec (.ret ign) s =
      .next ((s.setStack s.stack ⟨s.sp.val - 1, by omega⟩).setPc s.stack[s.sp.val - 1]) := by
  simp [exec, execRet, State.pop_eq, h]

theorem exec_ret_of_empty (ign : Nibble) (h : s.sp.val = 0) :
    exec (.ret ign) s = .next (s.raise ⟨.stackUnderflow, 0⟩) := by
  simp [exec, execRet, State.pop_eq, h]

/-- A push writes the slot `sp` and `sp`, and no other slot (R123). -/
theorem frame_of_push (h : s.sp.val < 16) (v target : Word) :
    Frame { slots := [s.sp.val], sp := true, pc := true } s
      ((s.setStack (s.stack.set s.sp.val v) ⟨s.sp.val + 1, by omega⟩).setPc target) := by
  refine ((Frame.refl _ s).setStack rfl (fun j hj => ?_) _).setPc rfl _
  have other : s.sp.val ≠ j.val := fun same => hj (List.mem_singleton.mpr same.symm)
  simp [other]

/-- A pop writes `sp` and no slot (R121). -/
theorem frame_of_pop (p : Fin 17) (target : Word) :
    Frame { sp := true, pc := true } s ((s.setStack s.stack p).setPc target) :=
  ((Frame.refl _ s).setStack rfl (fun _ _ => rfl) p).setPc rfl target

end Stack

/-! ## The statements -/

/-- Settles O29, on either side of the full stack. -/
theorem callPushesAndJumps : Obligations.CallPushesAndJumps := by
  refine ⟨decodesAs_of_opField fun w hop => ⟨rfl, wordNNN_eq_iff.mpr ⟨hop, rfl⟩⟩,
    fun s nnn => ⟨fun h => ?_, fun h => ?_⟩⟩
  · exact ⟨_, exec_call_of_lt nnn h, frame_of_push h _ _, rfl, by simp, addrOperand_toNat nnn⟩
  · exact ⟨_, exec_call_of_full nnn h, s.raise_faultEntry _⟩

/-- Settles O30, on either side of the empty stack. -/
theorem retPopsIntoThePc : Obligations.RetPopsIntoThePc := by
  refine ⟨decodesAs_of_opField_of_kkField fun w hop hkk => ⟨rfl, wordXKK_eq_iff.mpr ⟨hop, rfl, hkk⟩⟩,
    fun s ign => ⟨fun h => ?_, fun h => ?_⟩⟩
  · exact ⟨_, exec_ret_of_pos ign h, frame_of_pop _ _, rfl, rfl⟩
  · exact ⟨_, exec_ret_of_empty ign h, s.raise_faultEntry _⟩

/-- Settles O31: RET pops the slot that CALL pushed, and neither writes a slot below it. -/
theorem retUndoesCall : Obligations.RetUndoesCall := by
  intro s nnn ign h
  obtain ⟨t, called, callFrame, raised, pushed, _⟩ := (callPushesAndJumps.2 s nnn).1 h
  obtain ⟨u, returned, retFrame, lowered, popped⟩ := (retPopsIntoThePc.2 t ign).1 (by omega)
  refine ⟨t, u, called, returned, ?_, ?_, fun j hj => ?_⟩
  · simpa [raised, pushed] using popped
  · exact Fin.ext (by omega)
  · have below : j.val ∉ [s.sp.val] := List.mem_singleton.not.mpr hj.ne
    rw [retFrame.slots j List.not_mem_nil, callFrame.slots j below]

/-- Settles O27: the words are those of the well-formed SYS, and the dispatch only emits. -/
theorem sysOnlyEmitsDiag : Obligations.SysOnlyEmitsDiag := by
  refine ⟨fun w masked hE0 hEE => ?_, fun s nnn => ?_⟩
  · have notClsOrRet : kkField w ∉ zeroCodes := by simpa [zeroCodes] using ⟨hE0, hEE⟩
    have hop : opField w = 0x0 := opField_of_mask_F000 masked
    exact decodeWord_eq_iff.mpr ⟨by simpa [Instr.wellFormed] using notClsOrRet, wordNNN_eq_iff.mpr ⟨hop, rfl⟩⟩
  · exact ⟨_, rfl, (Frame.refl _ s).emitDiag rfl _, rfl⟩

/-- Settles O28: the sum of R124 is below the width of `pc`, so that it needs no mask. -/
theorem jumpsWriteThePc : Obligations.JumpsWriteThePc := by
  refine ⟨decodesAs_of_opField fun w hop => ⟨rfl, wordNNN_eq_iff.mpr ⟨hop, rfl⟩⟩,
    decodesAs_of_opField fun w hop => ⟨rfl, wordNNN_eq_iff.mpr ⟨hop, rfl⟩⟩, fun s nnn => ⟨?_, ?_⟩⟩
  · exact ⟨_, rfl, (Frame.refl _ s).setPc rfl _, addrOperand_toNat nnn⟩
  · exact ⟨_, rfl, (Frame.refl _ s).setPc rfl _, addrOperand_add_wideV_toNat s nnn 0⟩

end Sys2Proof.Machine
end

section
/-! PROOFS. The register skips of spec/42_skip.md (R130 to R133): what a skip on a condition answers, and the four
conditions. -/

namespace Sys2Proof.Machine

/-- The condition of a skip decides whether `pc` moves on by a further 2. -/
theorem State.skipIf_pc_eq (s : State) (c : Bool) : (s.skipIf c).pc = if c then s.pc + 2 else s.pc := by
  cases c <;> rfl

/-- A dispatch that skips on `c` writes `pc` alone, and leaves it where `c` says. -/
theorem completes_of_skipIf {i : Instr} {s : State} {c : Bool} {p : Word} (dispatched : exec i s = .next (s.skipIf c))
    (hp : (if c then s.pc + 2 else s.pc) = p) : Completes i s { pc := true } (fun t => t.pc = p) :=
  ⟨_, dispatched, (Frame.refl _ s).skipIf rfl c, (s.skipIf_pc_eq c).trans hp⟩

/-- Settles O32: each of the four rows is decoded on its top nibble, whatever bits 3:0, and each dispatch is a skip on
the row's condition. -/
theorem registerSkips : Obligations.RegisterSkips := by
  refine ⟨decodesAs_of_opField fun w hop => ⟨rfl, wordXKK_eq_iff.mpr ⟨hop, rfl, rfl⟩⟩,
    decodesAs_of_opField fun w hop => ⟨rfl, wordXKK_eq_iff.mpr ⟨hop, rfl, rfl⟩⟩,
    decodesAs_of_opField fun w hop => ⟨rfl, wordXYN_eq_iff.mpr ⟨hop, rfl, rfl, rfl⟩⟩,
    decodesAs_of_opField fun w hop => ⟨rfl, wordXYN_eq_iff.mpr ⟨hop, rfl, rfl, rfl⟩⟩,
    fun s x y ign kk => ⟨?_, ?_, ?_, ?_⟩⟩
  · exact completes_of_skipIf (c := s.getV x == kk) rfl (by simp)
  · exact completes_of_skipIf (c := s.getV x != kk) rfl (by simp)
  · exact completes_of_skipIf (c := s.getV x == s.getV y) rfl (by simp)
  · exact completes_of_skipIf (c := s.getV x != s.getV y) rfl (by simp)

end Sys2Proof.Machine
end

section
/-! PROOFS. Immediates and random of spec/43_const_random.md (R140 to R142): what a dispatch that writes one register
answers, and what a drawn byte leaves. -/

namespace Sys2Proof.Machine

/-- A dispatch that writes `V[x]` and nothing else completes, and its frame is `V[x]`. -/
theorem completes_of_setV {i : Instr} {s : State} {x : Nibble} {v : Byte} {p : State → Prop}
    (dispatched : exec i s = .next (s.setV x v)) (hp : p (s.setV x v)) : Completes i s { regs := [x] } p :=
  ⟨_, dispatched, (Frame.refl _ s).setV (.head _) v, hp⟩

/-- Settles O33: each row is decoded on its top nibble, and the sum of two bytes is taken modulo 256. -/
theorem immediateLoadAndAdd : Obligations.ImmediateLoadAndAdd := by
  refine ⟨decodesAs_of_opField fun w hop => ⟨rfl, wordXKK_eq_iff.mpr ⟨hop, rfl, rfl⟩⟩,
    decodesAs_of_opField fun w hop => ⟨rfl, wordXKK_eq_iff.mpr ⟨hop, rfl, rfl⟩⟩, fun s x kk => ⟨?_, ?_⟩⟩
  · exact completes_of_setV rfl (s.getV_setV_self x kk)
  · refine completes_of_setV (v := s.getV x + kk) rfl ?_
    rw [State.getV_setV_self, BitVec.toNat_add]

/-! ## The drawn byte (R142) -/

section Draw

variable (s : State) (r : Byte) (x : Nibble) (kk : Byte)

theorem State.getV_drawInto : (s.drawInto r x kk).getV x = r &&& kk := s.getV_setV_self x _

theorem State.drawInto_draws : (s.drawInto r x kk).draws = s.draws + 1 := rfl

/-- A draw writes `V[x]` and is counted, and leaves the rest. -/
theorem frame_of_drawInto : Frame { regs := [x], draw := true } s (s.drawInto r x kk) :=
  ((Frame.refl _ s).setV (.head _) _).nextDraw rfl

end Draw

/-- Settles O34: the dispatch draws the byte that the free value has at the count, and the mask bounds whatever byte
is drawn. -/
theorem randomIsMaskedByKk : Obligations.RandomIsMaskedByKk := by
  refine ⟨decodesAs_of_opField fun w hop => ⟨rfl, wordXKK_eq_iff.mpr ⟨hop, rfl, rfl⟩⟩,
    fun s x kk => ⟨?_, fun r => ?_⟩⟩
  · exact ⟨Config.rnd s.draws, _, rfl, frame_of_drawInto s _ x kk, rfl, s.drawInto_draws _ x kk⟩
  · refine ⟨frame_of_drawInto s r x kk, s.getV_drawInto r x kk, ?_, ?_⟩ <;> rw [State.getV_drawInto]
    · rw [BitVec.and_assoc, BitVec.and_not_self]
      exact BitVec.and_zero
    · rw [BitVec.le_def, BitVec.toNat_and]
      exact Nat.and_le_right

end Sys2Proof.Machine
end

section
/-! PROOFS. The register-register family of spec/44_alu.md (R150 to R160): the words that the mask on the top and
bottom nibbles selects, what a dispatch that writes a result and then a flag answers, and the flags as numbers. -/

namespace Sys2Proof.Machine

/-! ## The words of a row of the `8` family (R84) -/

theorem opField_of_mask_F00F {w pattern : Word} (masked : w &&& 0xF00F = pattern) : opField w = opField pattern := by
  rw [← masked, show w &&& 0xF00F = _ from and_F00F w, opField_wordXYN]

theorem nField_of_mask_F00F {w pattern : Word} (masked : w &&& 0xF00F = pattern) : nField w = nField pattern := by
  rw [← masked, show w &&& 0xF00F = _ from and_F00F w, nField_wordXYN]

/-- The rows of the mask 0xF00F are decoded on the top nibble and the bottom nibble: a word of such a row is the word
of the row's instruction with the word's own `x` and `y`. -/
theorem decodesAs_of_wordXYN {pattern : Word} {f : Word → Instr} (wellFormed : ∀ w, (f w).wellFormed = true)
    (encoded : ∀ w, encode (f w) = wordXYN (opField pattern) (xField w) (yField w) (nField pattern)) :
    DecodesAs 0xF00F pattern f := by
  refine fun w masked => decodeWord_eq_iff.mpr ⟨wellFormed w, ?_⟩
  rw [encoded, ← opField_of_mask_F00F masked, ← nField_of_mask_F00F masked, wordXYN_fields]

/-! ## A result and a flag (R159) -/

/-- The flag is written last, so `V[0xF]` holds it for every `x`. -/
theorem State.getV_setResultAndFlag_flag (s : State) (x : Nibble) (result flag : Byte) :
    (s.setResultAndFlag x result flag).getV 0xF = flag :=
  State.getV_setV_self _ 0xF flag

theorem State.getV_setResultAndFlag_of_ne (s : State) {x : Nibble} (notFlag : x ≠ 0xF) (result flag : Byte) :
    (s.setResultAndFlag x result flag).getV x = result :=
  (State.getV_setV_ne _ notFlag flag).trans (s.getV_setV_self x result)

/-- A dispatch that writes a result and then a flag completes, its frame is `V[x]` and `V[0xF]`, and what it leaves
there has every property that the flag in `V[0xF]` and the result in any other `V[x]` give. -/
theorem completes_of_setResultAndFlag {i : Instr} {s : State} {x : Nibble} {result flag : Byte} {p : State → Prop}
    (dispatched : exec i s = .next (s.setResultAndFlag x result flag))
    (hp : ∀ t : State, t.getV 0xF = flag → (x ≠ 0xF → t.getV x = result) → p t) :
    Completes i s { regs := [x, 0xF] } p :=
  ⟨_, dispatched, (Frame.refl _ s).setResultAndFlag (.head _) (.tail _ (.head _)) result flag,
    hp _ (s.getV_setResultAndFlag_flag x result flag) fun notFlag => s.getV_setResultAndFlag_of_ne notFlag result flag⟩

/-! ## The flags and the results as numbers -/

theorem carryFlag_eq (a b : Byte) : carryFlag a b = if 255 < a.toNat + b.toNat then 1 else 0 := by
  simp [carryFlag, flagBit]

theorem notBorrowFlag_eq (a b : Byte) : notBorrowFlag a b = if a.toNat < b.toNat then 0 else 1 := by
  by_cases borrow : a.toNat < b.toNat <;> simp [notBorrowFlag, flagBit, borrow]

theorem shrFlag_toNat (v : Byte) : (shrFlag v).toNat = v.toNat % 2 :=
  (BitVec.toNat_and v 1).trans (Nat.and_one_is_mod _)

/-- The raw flag is the top bit where it stands, the other one is the top bit moved to bit 0 (R158). -/
theorem shlFlag_toNat (raw : Bool) (v : Byte) :
    (shlFlag raw v).toNat = if 128 ≤ v.toNat then (if raw then 0x80 else 1) else 0 := by
  have bound := v.isLt
  cases raw with
  | true =>
    have topBit : (v &&& 0x80).toNat = (v.toNat.testBit 7).toNat * 2 ^ 7 :=
      (BitVec.toNat_and v 0x80).trans (Nat.and_two_pow v.toNat 7)
    rw [Nat.testBit_eq_decide_div_mod_eq] at topBit
    by_cases top : 128 ≤ v.toNat
    · simpa [shlFlag, top, show v.toNat / 128 % 2 = 1 by omega] using topBit
    · simpa [shlFlag, top, show v.toNat / 128 % 2 = 0 by omega] using topBit
  | false =>
    have topBit : (v >>> 7).toNat = v.toNat / 128 := by
      rw [BitVec.toNat_ushiftRight, Nat.shiftRight_eq_div_pow]
    simp only [shlFlag, Bool.false_eq_true, if_false, topBit]
    split <;> omega

/-- A difference of bytes wraps modulo 256 (R160). -/
theorem toNat_sub_eq_emod (a b : Byte) : ((a - b).toNat : Int) = (a.toNat - b.toNat : Int) % 256 := by
  have := a.isLt
  have := b.isLt
  rw [BitVec.toNat_sub]
  omega

theorem toNat_ushiftRight_one (v : Byte) : (v >>> 1).toNat = v.toNat / 2 := by
  rw [BitVec.toNat_ushiftRight, Nat.shiftRight_one]

theorem toNat_shiftLeft_one (v : Byte) : (v <<< 1).toNat = 2 * v.toNat % 256 := by
  rw [BitVec.toNat_shiftLeft, Nat.shiftLeft_eq, Nat.mul_comm]

/-! ## The statements -/

/-- Settles O36: `V[0xF]` holds the carry whatever `x` is. -/
theorem addSetsCarry : Obligations.AddSetsCarry := by
  refine ⟨decodesAs_of_wordXYN (fun _ => rfl) fun _ => rfl,
    fun s x y => completes_of_setResultAndFlag rfl fun t flag sum => ⟨?_, fun notFlag => ?_⟩⟩
  · rw [flag, carryFlag_eq]
  · rw [sum notFlag, BitVec.toNat_add]

/-- Settles O37: the minuend is `V[x]`. -/
theorem subSetsNotBorrow : Obligations.SubSetsNotBorrow := by
  refine ⟨decodesAs_of_wordXYN (fun _ => rfl) fun _ => rfl,
    fun s x y => completes_of_setResultAndFlag rfl fun t flag difference => ⟨?_, fun notFlag => ?_⟩⟩
  · rw [flag, notBorrowFlag_eq]
  · rw [difference notFlag, toNat_sub_eq_emod]

/-- Settles O38: as for SUB, with the minuend `V[y]`. -/
theorem subnSetsNotBorrow : Obligations.SubnSetsNotBorrow := by
  refine ⟨decodesAs_of_wordXYN (fun _ => rfl) fun _ => rfl,
    fun s x y => completes_of_setResultAndFlag rfl fun t flag difference => ⟨?_, fun notFlag => ?_⟩⟩
  · rw [flag, notBorrowFlag_eq]
  · rw [difference notFlag, toNat_sub_eq_emod]

/-- Settles O39, for the source that the configuration names. -/
theorem shrHalvesAndSetsLowBit : Obligations.ShrHalvesAndSetsLowBit := by
  refine ⟨decodesAs_of_wordXYN (fun _ => rfl) fun _ => rfl,
    fun s x y => completes_of_setResultAndFlag rfl fun t flag half => ⟨?_, fun notFlag => ?_⟩⟩
  · rw [flag]
    exact shrFlag_toNat (s.shiftSource x y)
  · rw [half notFlag]
    exact toNat_ushiftRight_one (s.shiftSource x y)

/-- Settles O40, for the source and the form of the flag that the configuration names. -/
theorem shlDoublesAndSetsHighBit : Obligations.ShlDoublesAndSetsHighBit := by
  refine ⟨decodesAs_of_wordXYN (fun _ => rfl) fun _ => rfl,
    fun s x y => completes_of_setResultAndFlag rfl fun t flag double => ⟨?_, fun notFlag => ?_⟩⟩
  · rw [flag]
    exact shlFlag_toNat s.cfg.shlFlagRaw (s.shiftSource x y)
  · rw [double notFlag]
    exact toNat_shiftLeft_one (s.shiftSource x y)

/-- Settles O35: each of the four dispatches writes `V[x]` alone, so that `V[0xF]` stays unless it is `V[x]`. -/
theorem registerMoveAndLogic : Obligations.RegisterMoveAndLogic := by
  refine ⟨decodesAs_of_wordXYN (fun _ => rfl) fun _ => rfl,
    decodesAs_of_wordXYN (fun _ => rfl) fun _ => rfl,
    decodesAs_of_wordXYN (fun _ => rfl) fun _ => rfl,
    decodesAs_of_wordXYN (fun _ => rfl) fun _ => rfl,
    fun s x y => ⟨?_, ?_, ?_, ?_⟩⟩
  all_goals exact completes_of_setV rfl (s.getV_setV_self x _)

end Sys2Proof.Machine
end

section
/-! PROOFS. The index register and the memory transfers of spec/45_index_memory.md (R170 to R175): the three writes of
`I`, the answers of the transfers on either side of the end of memory, and what a transfer leaves in memory, in the
registers and in `I`. -/

namespace Sys2Proof.Machine

/-! ## The writes of `I` (R170 to R172) -/

/-- A dispatch that writes `I` and nothing else completes, and its frame is `I`. -/
theorem completes_of_setI {i : Instr} {s : State} {v : Word} {n : Nat} (dispatched : exec i s = .next (s.setI v))
    (hv : v.toNat = n) : Completes i s { index := true } (fun t => t.I.toNat = n) :=
  ⟨_, dispatched, (Frame.refl _ s).setI rfl v, hv⟩

/-- The address of a glyph does not wrap, even for a byte that names no digit (R172). -/
theorem glyphAddr_toNat (v : Byte) : (glyphAddr v).toNat = v.toNat * 5 := by
  have := v.isLt
  simp only [glyphAddr, BitVec.toNat_mul, BitVec.toNat_setWidth, BitVec.ofNat_eq_ofNat, BitVec.toNat_ofNat]
  omega

/-! ## The answers of the transfers (R173 to R175, R228) -/

section Transfers

variable {s : State} {x : Nibble} {trap : Trap}

theorem exec_ldB_of_inRange (inRange : rangeFault s.I 3 = none) :
    exec (.ldB x) s = .next (s.storeAt s.I (decimalDigits (s.getV x))) := by
  simp [exec, execLdB, inRange]

theorem exec_ldB_of_outOfRange (outOfRange : rangeFault s.I 3 = some trap) :
    exec (.ldB x) s = .next (s.raise trap) := by
  simp [exec, execLdB, outOfRange]

theorem exec_storeRegs_of_inRange (inRange : rangeFault s.I (x.toNat + 1) = none) :
    exec (.storeRegs x) s = .next ((s.storeAt s.I (s.regsUpTo x)).setI (s.indexAfterTransfer x)) := by
  simp [exec, execStoreRegs, inRange]

theorem exec_storeRegs_of_outOfRange (outOfRange : rangeFault s.I (x.toNat + 1) = some trap) :
    exec (.storeRegs x) s = .next (s.raise trap) := by
  simp [exec, execStoreRegs, outOfRange]

theorem exec_loadRegs_of_inRange (inRange : rangeFault s.I (x.toNat + 1) = none) :
    exec (.loadRegs x) s =
      .next ((s.loadV (s.bytesAt s.I (x.toNat + 1))).setI (s.indexAfterTransfer x)) := by
  simp [exec, execLoadRegs, inRange]

theorem exec_loadRegs_of_outOfRange (outOfRange : rangeFault s.I (x.toNat + 1) = some trap) :
    exec (.loadRegs x) s = .next (s.raise trap) := by
  simp [exec, execLoadRegs, outOfRange]

/-- An access of `n + 1` bytes whose last address exists is in range (R53). -/
theorem rangeFault_succ_eq_none {base : Word} {n : Nat} (h : base.toNat + n ≤ 0xFFF) :
    rangeFault base (n + 1) = none :=
  rangeFault_eq_none.mpr (.inr h)

/-- A dispatch that raises the fault of an access of `n + 1` bytes from `I` takes AddressFault when the last address
does not exist, with the least address out of range as its detail (R222). -/
theorem faults_of_outOfRange {i : Instr} {n : Nat}
    (raised : ∀ {trap : Trap}, rangeFault s.I (n + 1) = some trap → exec i s = .next (s.raise trap))
    (beyond : 0xFFF < s.I.toNat + n) : Faults i s ⟨.address, BitVec.ofNat 16 (max s.I.toNat 0x1000)⟩ :=
  ⟨_, raised (rangeFault_eq_some n.succ_pos beyond), s.raise_faultEntry _⟩

/-! ## What a transfer writes -/

/-- The addresses that a store of `len` bytes from `base` writes. -/
theorem add_mem_map_range {base len k : Nat} (hk : k < len) : base + k ∈ (List.range len).map (base + ·) :=
  List.mem_map_of_mem (List.mem_range.mpr hk)

/-- `Fx33` writes the three bytes from `I` on (R173). -/
theorem frame_of_storeAt_decimalDigits (s : State) (v : Byte) :
    Frame { bytes := [s.I.toNat, s.I.toNat + 1, s.I.toNat + 2] } s (s.storeAt s.I (decimalDigits v)) :=
  (Frame.refl _ s).storeAt fun _ hk => add_mem_map_range (len := 3) hk

/-- `Fx55` writes the `x + 1` bytes from `I` on, and `I` (R174). -/
theorem frame_of_storeAt_regsUpTo (s : State) (x : Nibble) (v : Word) :
    Frame { bytes := (List.range (x.toNat + 1)).map (s.I.toNat + ·), index := true } s
      ((s.storeAt s.I (s.regsUpTo x)).setI v) := by
  refine ((Frame.refl _ s).storeAt fun k hk => ?_).setI rfl v
  rw [State.regsUpTo_length] at hk
  exact add_mem_map_range hk

/-- `Fx65` writes the registers up to `V[x]`, and `I` (R175). -/
theorem frame_of_loadV_bytesAt (s : State) (x : Nibble) (base v : Word) :
    Frame { regs := (List.range (x.toNat + 1)).map (BitVec.ofNat 4), index := true } s
      ((s.loadV (s.bytesAt base (x.toNat + 1))).setI v) := by
  refine ((Frame.refl _ s).loadV fun r hr => ?_).setI rfl v
  rw [State.bytesAt_length] at hr
  exact mem_regsUpTo.mpr (Nat.le_of_lt_succ hr)

/-- Where `Fx55` has stored the registers, `V[j]` is read back (R174). -/
theorem State.peek_storeAt_regsUpTo {j : Nibble} (hj : j ≤ x) (inRange : rangeFault s.I (x.toNat + 1) = none)
    (hm : Memory.wf s.cfg.font s.mem = true) :
    (s.storeAt s.I (s.regsUpTo x)).peek (s.I.toNat + j.toNat) = s.getV j := by
  have hlen := s.regsUpTo_length x
  have hk : j.toNat < (s.regsUpTo x).length := hlen ▸ Nat.lt_succ_of_le hj
  rw [State.peek_storeAt_stored hk (hlen ▸ inRange) hm, State.regsUpTo_getElem, BitVec.ofNat_toNat,
    BitVec.setWidth_eq]

/-- Where `Fx65` has loaded the registers, `V[j]` is the byte `j` addresses from the base (R175). -/
theorem State.getV_loadV_bytesAt {base : Word} {j : Nibble} (hj : j ≤ x) :
    (s.loadV (s.bytesAt base (x.toNat + 1))).getV j = s.peek (base.toNat + j.toNat) := by
  have hk : j.toNat < (s.bytesAt base (x.toNat + 1)).length := by
    rw [State.bytesAt_length]
    exact Nat.lt_succ_of_le hj
  rw [State.getV_loadV, dif_pos hk, State.bytesAt_getElem]

/-- After a transfer in range, `I` stands past it without wrapping, or where it was (LDST_INCREMENT_I). -/
theorem State.indexAfterTransfer_toNat (h : s.I.toNat + x.toNat ≤ 0xFFF) :
    (s.indexAfterTransfer x).toNat = if s.cfg.ldstIncrementI then s.I.toNat + x.toNat + 1 else s.I.toNat := by
  unfold State.indexAfterTransfer
  split
  · simp only [BitVec.toNat_add, BitVec.toNat_setWidth, BitVec.ofNat_eq_ofNat, BitVec.toNat_ofNat]
    omega
  · rfl

end Transfers

/-! ## The statements -/

/-- Settles O42, on either side of `I = 0xFFD`: the three digits are the three bytes of the store. -/
theorem bcdStoresThreeDigits : Obligations.BcdStoresThreeDigits := by
  refine ⟨decodesAs_of_opField_of_kkField fun w hop hkk => ⟨rfl, wordXKK_eq_iff.mpr ⟨hop, rfl, hkk⟩⟩,
    fun s x => ⟨fun hm h => ?_, faults_of_outOfRange exec_ldB_of_outOfRange⟩⟩
  have inRange : rangeFault s.I 3 = none := rangeFault_succ_eq_none h
  have stored {k : Nat} (hk : k < 3) :
      (s.storeAt s.I (decimalDigits (s.getV x))).peek (s.I.toNat + k) = (decimalDigits (s.getV x))[k] :=
    State.peek_storeAt_stored hk inRange hm
  refine ⟨_, exec_ldB_of_inRange inRange, frame_of_storeAt_decimalDigits s (s.getV x), ?_, ?_, ?_⟩
  · exact (congrArg BitVec.toNat (stored (k := 0) (by decide))).trans BitVec.toNat_udiv
  · rw [stored (k := 1) (by decide)]
    simp [decimalDigits]
  · rw [stored (k := 2) (by decide)]
    simp [decimalDigits]

/-- Settles O43, on either side of the last address. -/
theorem storeRegistersToMemory : Obligations.StoreRegistersToMemory := by
  refine ⟨decodesAs_of_opField_of_kkField fun w hop hkk => ⟨rfl, wordXKK_eq_iff.mpr ⟨hop, rfl, hkk⟩⟩,
    fun s x => ⟨fun hm h => ?_, faults_of_outOfRange exec_storeRegs_of_outOfRange⟩⟩
  have inRange : rangeFault s.I (x.toNat + 1) = none := rangeFault_succ_eq_none h
  exact ⟨_, exec_storeRegs_of_inRange inRange, frame_of_storeAt_regsUpTo s x _,
    fun j hj => State.peek_storeAt_regsUpTo hj inRange hm, State.indexAfterTransfer_toNat h⟩

/-- Settles O44, on either side of the last address. -/
theorem loadRegistersFromMemory : Obligations.LoadRegistersFromMemory := by
  refine ⟨decodesAs_of_opField_of_kkField fun w hop hkk => ⟨rfl, wordXKK_eq_iff.mpr ⟨hop, rfl, hkk⟩⟩,
    fun s x => ⟨fun h => ?_, faults_of_outOfRange exec_loadRegs_of_outOfRange⟩⟩
  exact ⟨_, exec_loadRegs_of_inRange (rangeFault_succ_eq_none h), frame_of_loadV_bytesAt s x s.I _,
    fun j hj => State.getV_loadV_bytesAt hj, State.indexAfterTransfer_toNat h⟩

/-- Settles O45: `Fx65` loads the bytes that `Fx55` stored, and its frame leaves the registers above `x`. -/
theorem storeThenLoadRoundTrips : Obligations.StoreThenLoadRoundTrips := by
  intro s t r x hm h hstore hmem hcfg hI
  obtain ⟨_, answered, _, stored, _⟩ := (storeRegistersToMemory.2 s x).1 hm h
  cases hstore.symm.trans answered
  obtain ⟨u, hload, frame, loaded, _⟩ := (loadRegistersFromMemory.2 r x).1 (hI ▸ h)
  have samePeek (a : Nat) : r.peek a = t.peek a := by rw [State.peek, State.peek, hmem, hcfg]
  refine ⟨u, hload, fun j hj => ?_, fun j hj => frame.regs j (mem_regsUpTo.not.mpr (BitVec.not_le.mpr hj))⟩
  calc u.getV j = r.peek (r.I.toNat + j.toNat) := loaded j hj
    _ = t.peek (s.I.toNat + j.toNat) := by rw [samePeek, hI]
    _ = s.getV j := stored j hj

/-- Settles O41: each of the three dispatches writes `I` alone; only the sum with `V[x]` can wrap. -/
theorem indexRegisterWrites : Obligations.IndexRegisterWrites := by
  refine ⟨decodesAs_of_opField fun w hop => ⟨rfl, wordNNN_eq_iff.mpr ⟨hop, rfl⟩⟩,
    decodesAs_of_opField_of_kkField fun w hop hkk => ⟨rfl, wordXKK_eq_iff.mpr ⟨hop, rfl, hkk⟩⟩,
    decodesAs_of_opField_of_kkField fun w hop hkk => ⟨rfl, wordXKK_eq_iff.mpr ⟨hop, rfl, hkk⟩⟩,
    fun s nnn x => ⟨?_, ?_, ?_⟩⟩
  · exact completes_of_setI rfl (addrOperand_toNat nnn)
  · refine completes_of_setI (v := s.I + s.wideV x) rfl ?_
    rw [BitVec.toNat_add, State.wideV_toNat]
  · exact completes_of_setI rfl (glyphAddr_toNat (s.getV x))

end Sys2Proof.Machine
end

section
/-! PROOFS. The display of spec/46_display.md (R190 to R192). `Plot.Flips S p q` says what a plot that sets the pixels
of the cells `S`, each once, makes of `p`; one pixel, one sprite row and the rows of a sprite are plots of this kind,
because the pixels of a row land in different columns and the rows of a sprite on different screen rows. -/

namespace Sys2Proof.Machine

/-! ## Cells -/

/-- A framebuffer is determined by its cells (R30). -/
theorem screen_eq_of_cellAt {f g : Screen} (h : ∀ column row : Nat, cellAt f column row = cellAt g column row) :
    f = g := by
  ext row hrow column hcolumn
  simpa [cellAt, hrow, BitVec.getLsbD_eq_getElem hcolumn] using h column row

/-- The eight pixels of a sprite byte land in different columns (R190). -/
theorem plotColumn_ne {x0 : Byte} {b b' : Nat} (h : b < b') (h' : b' < 8) : plotColumn x0 b ≠ plotColumn x0 b' := by
  rw [plotColumn_eq, plotColumn_eq]
  omega

/-- Fewer than 32 rows apart, two sprite rows land on different screen rows (R190). -/
theorem plotRow_ne {y0 : Byte} {r r' : Nat} (h : r < r') (h' : r' < r + 32) : plotRow y0 r ≠ plotRow y0 r' := by
  rw [plotRow_eq, plotRow_eq]
  omega

/-! ## What a plot does to the cells it covers -/

/-- The plot `q` differs from `p` in exactly the cells `S`, and has recorded a collision exactly when `p` had or one of
those cells was on in `p`. -/
structure Plot.Flips (S : Nat → Nat → Prop) (p q : Plot) : Prop where
  cells : ∀ column row : Nat, cellAt q.screen column row ≠ cellAt p.screen column row ↔ S column row
  collides : q.collision = true ↔
    p.collision = true ∨ ∃ column row : Nat, S column row ∧ cellAt p.screen column row = true

section Flips

variable {S T U : Nat → Nat → Prop} {p q u : Plot}

theorem Plot.Flips.of_empty (empty : ∀ column row, ¬S column row) : Plot.Flips S p p where
  cells column row := by simp [empty]
  collides := by simp [empty]

theorem Plot.Flips.congr (h : Plot.Flips S p q) (same : ∀ column row, U column row ↔ S column row) :
    Plot.Flips U p q where
  cells column row := by rw [same, h.cells]
  collides := by simp only [same, h.collides]

/-- A cell outside `S` is as it was. -/
theorem Plot.Flips.cellAt_eq (h : Plot.Flips S p q) {column row : Nat} (outside : ¬S column row) :
    cellAt q.screen column row = cellAt p.screen column row :=
  not_not.mp ((h.cells column row).not.mpr outside)

/-- A cell of `S` is XORed with 1. -/
theorem Plot.Flips.cellAt_eq_not (h : Plot.Flips S p q) {column row : Nat} (covered : S column row) :
    cellAt q.screen column row = !cellAt p.screen column row :=
  Bool.eq_not_of_ne ((h.cells column row).mpr covered)

/-- Two plots in a row flip the cells of both, when no cell is in both: the second finds its own cells as the first
found them. -/
theorem Plot.Flips.trans (h : Plot.Flips S p q) (h' : Plot.Flips T q u)
    (disjoint : ∀ column row, T column row → ¬S column row) :
    Plot.Flips (fun column row => S column row ∨ T column row) p u where
  cells column row := by
    by_cases second : T column row
    · rw [h'.cellAt_eq_not second, h.cellAt_eq (disjoint column row second)]
      simp [second]
    · rw [h'.cellAt_eq second, h.cells]
      simp [second]
  collides := by
    have untouched (column row : Nat) : T column row ∧ cellAt q.screen column row = true ↔
        T column row ∧ cellAt p.screen column row = true :=
      and_congr_right fun second => by rw [h.cellAt_eq (disjoint column row second)]
    simp only [h'.collides, h.collides, untouched, or_and_right, exists_or, or_assoc]

/-- A second plot of the same cells undoes the first. -/
theorem Plot.Flips.screen_eq_of_twice {collided : Bool} (h : Plot.Flips S p q)
    (h' : Plot.Flips S ⟨q.screen, collided⟩ u) : u.screen = p.screen := by
  refine screen_eq_of_cellAt fun column row => ?_
  by_cases covered : S column row
  · rw [h'.cellAt_eq_not covered, h.cellAt_eq_not covered, Bool.not_not]
  · rw [h'.cellAt_eq covered, h.cellAt_eq covered]

/-- A plot that has recorded no collision has turned all its cells on. -/
theorem Plot.Flips.cellAt_of_not_collision (h : Plot.Flips S p q) (clear : q.collision = false) {column row : Nat}
    (covered : S column row) : cellAt q.screen column row = true := by
  have off : cellAt p.screen column row = false := by
    by_contra on
    have collided := h.collides.mpr (.inr ⟨column, row, covered, Bool.eq_true_of_not_eq_false on⟩)
    simp [clear] at collided
  rw [h.cellAt_eq_not covered, off, Bool.not_false]

end Flips

/-! ## The plots of a pixel, of a sprite row and of the rows of a sprite -/

theorem Plot.pixel_flips (p : Plot) {c r : Nat} (hc : c < 64) (hr : r < 32) :
    Plot.Flips (fun column row => row = r ∧ column = c) p (p.pixel c r) where
  cells column row := by
    rw [(p.pixel_spec column row hc hr).2]
    cases cellAt p.screen column row <;> simp [and_comm]
  collides := by simp [(p.pixel_spec 0 0 hc hr).1]

/-- One of the first `n` pixels of the sprite byte `bits`, on screen row `r`, is set and lands on the cell (R190). -/
def rowCovers (x0 : Byte) (r : Nat) (bits : Byte) (n column row : Nat) : Prop :=
  row = r ∧ ∃ b < n, pixelSet bits b = true ∧ column = plotColumn x0 b

theorem rowCovers_succ (x0 : Byte) (r : Nat) (bits : Byte) (n column row : Nat) :
    rowCovers x0 r bits (n + 1) column row ↔ rowCovers x0 r bits n column row ∨
      row = r ∧ pixelSet bits n = true ∧ column = plotColumn x0 n := by
  simp only [rowCovers, Nat.exists_lt_succ_right, and_or_left]

/-- The pixel at offset `b` of a sprite byte: nothing, unless it is set. -/
theorem Plot.pixelAt_flips (p : Plot) (x0 bits : Byte) {r : Nat} (b : Nat) (hr : r < 32) :
    Plot.Flips (fun column row => row = r ∧ pixelSet bits b = true ∧ column = plotColumn x0 b) p
      (if pixelSet bits b then p.pixel (plotColumn x0 b) r else p) := by
  split
  · next isSet => exact (p.pixel_flips (plotColumn_lt x0 b) hr).congr fun _ _ => and_congr_right' (and_iff_right isSet)
  · next clear => exact .of_empty fun _ _ covered => clear covered.2.1

/-- The first `n` pixels of a sprite row, of which none lands in the column of the next. -/
theorem Plot.spritePixels_flips (p : Plot) (x0 bits : Byte) {r : Nat} (hr : r < 32) {n : Nat} (hn : n ≤ 8) :
    Plot.Flips (rowCovers x0 r bits n) p ((List.range n).foldl
      (fun q b => if pixelSet bits b then q.pixel (plotColumn x0 b) r else q) p) := by
  induction n with
  | zero => exact .of_empty fun _ _ ⟨_, _, impossible, _⟩ => absurd impossible (Nat.not_lt_zero _)
  | succ n ih =>
    rw [List.range_succ, List.foldl_append]
    refine ((ih (by omega)).trans (Plot.pixelAt_flips _ x0 bits n hr) ?_).congr (rowCovers_succ x0 r bits n)
    rintro column row ⟨_, _, hcolumn⟩ ⟨_, b, hb, _, hcolumn'⟩
    exact plotColumn_ne hb hn (hcolumn'.symm.trans hcolumn)

theorem Plot.spriteRow_flips (p : Plot) (x0 bits : Byte) {r : Nat} (hr : r < 32) :
    Plot.Flips (rowCovers x0 r bits 8) p (p.spriteRow x0 r bits) :=
  p.spritePixels_flips x0 bits hr (Nat.le_refl 8)

/-- A set pixel of the sprite rows `rows`, of which the first is row `start` of the sprite, lands on the cell (R190). -/
def rowsCover (x0 y0 : Byte) (start : Nat) (rows : List Byte) (column row : Nat) : Prop :=
  ∃ r, ∃ h : r < rows.length, rowCovers x0 (plotRow y0 (start + r)) rows[r] 8 column row

theorem rowsCover_cons (x0 y0 : Byte) (start : Nat) (bits : Byte) (rest : List Byte) (column row : Nat) :
    rowsCover x0 y0 start (bits :: rest) column row ↔
      rowCovers x0 (plotRow y0 start) bits 8 column row ∨ rowsCover x0 y0 (start + 1) rest column row := by
  constructor
  · rintro ⟨_ | r, hr, covered⟩
    · exact .inl covered
    · exact .inr ⟨r, Nat.lt_of_succ_lt_succ hr, by rwa [Nat.add_assoc, Nat.add_comm 1 r]⟩
  · rintro (covered | ⟨r, hr, covered⟩)
    · exact ⟨0, Nat.succ_pos _, covered⟩
    · exact ⟨r + 1, Nat.succ_lt_succ hr, by rwa [Nat.add_assoc, Nat.add_comm 1 r] at covered⟩

/-- At most 32 rows of a sprite, of which none lands on the screen row of another. -/
theorem Plot.spriteRows_flips (p : Plot) (x0 y0 : Byte) (start : Nat) {rows : List Byte} (h : rows.length ≤ 32) :
    Plot.Flips (rowsCover x0 y0 start rows) p (p.spriteRows x0 y0 start rows) := by
  induction rows generalizing p start with
  | nil => exact .of_empty fun _ _ ⟨_, impossible, _⟩ => absurd impossible (Nat.not_lt_zero _)
  | cons bits rest ih =>
    rw [List.length_cons] at h
    refine ((p.spriteRow_flips x0 bits (plotRow_lt y0 start)).trans (ih _ (start + 1) (by omega)) ?_).congr
      (rowsCover_cons x0 y0 start bits rest)
    rintro column row ⟨r, hr, hrow, _⟩ ⟨hrow', _⟩
    exact plotRow_ne (by omega) (by omega) (hrow'.symm.trans hrow)

/-! ## The plotter (R190) -/

theorem spriteCovers_iff (x0 y0 : Byte) (rows : List Byte) (column row : Nat) :
    spriteCovers x0 y0 rows column row ↔ rowsCover x0 y0 0 rows column row := by
  simp only [spriteCovers, rowsCover, rowCovers, pixelSet, plotColumn_eq, plotRow_eq, Nat.zero_add]
  constructor
  · rintro ⟨r, b, hr, hb, isSet, hcolumn, hrow⟩
    exact ⟨r, hr, hrow, b, hb, isSet, hcolumn⟩
  · rintro ⟨r, hr, hrow, b, hb, isSet, hcolumn⟩
    exact ⟨r, b, hr, hb, isSet, hcolumn, hrow⟩

/-- The plotter flips the cells that the sprite covers. -/
theorem plotSprite_flips (f : Screen) (x0 y0 : Byte) {rows : List Byte} (h : rows.length ≤ 32) :
    Plot.Flips (spriteCovers x0 y0 rows) ⟨f, false⟩ (plotSprite f x0 y0 rows) :=
  (Plot.spriteRows_flips ⟨f, false⟩ x0 y0 0 h).congr (spriteCovers_iff x0 y0 rows)

/-- The plotter starts with no collision recorded, so that it reports its own. -/
theorem plotSprite_collision_iff (f : Screen) (x0 y0 : Byte) {rows : List Byte} (h : rows.length ≤ 32) :
    (plotSprite f x0 y0 rows).collision = true ↔
      ∃ column row : Nat, spriteCovers x0 y0 rows column row ∧ cellAt f column row = true := by
  simpa using (plotSprite_flips f x0 y0 h).collides

/-- A sprite byte other than 0 has a set pixel. -/
theorem ne_zero_iff_exists_pixel (bits : Byte) : bits ≠ 0 ↔ ∃ b < 8, bits.getLsbD (7 - b) = true := by
  constructor
  · intro nonzero
    by_contra! clear
    refine nonzero (BitVec.eq_of_getLsbD_eq fun i hi => ?_)
    simpa [show 7 - (7 - i) = i by omega] using clear (7 - i) (by omega)
  · rintro ⟨b, _, isSet⟩ rfl
    simp at isSet

/-- A sprite covers a cell exactly when it has a set pixel. -/
theorem exists_spriteCovers_iff (x0 y0 : Byte) (rows : List Byte) :
    (∃ column row, spriteCovers x0 y0 rows column row) ↔ ∃ b ∈ rows, b ≠ 0 := by
  constructor
  · rintro ⟨_, _, r, b, hr, hb, isSet, _⟩
    exact ⟨rows[r], List.getElem_mem hr, (ne_zero_iff_exists_pixel _).mpr ⟨b, hb, isSet⟩⟩
  · rintro ⟨bits, mem, nonzero⟩
    obtain ⟨r, hr, rfl⟩ := List.getElem_of_mem mem
    obtain ⟨b, hb, isSet⟩ := (ne_zero_iff_exists_pixel _).mp nonzero
    exact ⟨_, _, r, b, hr, hb, isSet, rfl, rfl⟩

/-! ## The answers of DRW (R192, R228) -/

section Draw

variable {s : State} {n : Nibble}

theorem exec_drw_of_inRange (x y : Nibble) (inRange : rangeFault s.I n.toNat = none) :
    exec (.drw x y n) s =
      .next ((s.setScreen (plotSprite s.fb (s.getV x) (s.getV y) (s.bytesAt s.I n.toNat)).screen).setFlag
        (flagBit (plotSprite s.fb (s.getV x) (s.getV y) (s.bytesAt s.I n.toNat)).collision)) := by
  simp [exec, execDrw, inRange]

theorem exec_drw_of_outOfRange (x y : Nibble) {trap : Trap} (outOfRange : rangeFault s.I n.toNat = some trap) :
    exec (.drw x y n) s = .next (s.raise trap) := by
  simp [exec, execDrw, outOfRange]

end Draw

/-- A dispatch that writes the framebuffer and then the flag writes nothing else (R192). -/
theorem frame_of_setScreen_setFlag (s : State) (f : Screen) (flag : Byte) :
    Frame { regs := [0xF], screen := true } s ((s.setScreen f).setFlag flag) :=
  ((Frame.refl _ s).setScreen rfl f).setV (.head _) flag

/-! ## The statements -/

/-- Settles O47: at most 15 rows are fewer than the 32 of the screen. -/
theorem plotterXorsTheCoveredCells : Obligations.PlotterXorsTheCoveredCells := by
  intro f x0 y0 rows h
  have few : rows.length ≤ 32 := by omega
  exact ⟨fun column row _ _ => (plotSprite_flips f x0 y0 few).cells column row,
    plotSprite_collision_iff f x0 y0 few⟩

/-- Settles O48, on either side of the last address. -/
theorem drwDrawsTheSprite : Obligations.DrwDrawsTheSprite := by
  refine ⟨decodesAs_of_opField fun w hop => ⟨rfl, wordXYN_eq_iff.mpr ⟨hop, rfl, rfl, rfl⟩⟩,
    fun s x y n => ⟨fun h => ?_, fun ⟨hn, beyond⟩ => ?_⟩⟩
  · have inRange : rangeFault s.I n.toNat = none := rangeFault_eq_none.mpr (by
      obtain rfl | last := h
      · exact .inl rfl
      · omega)
    have few : (s.bytesAt s.I n.toNat).length ≤ 32 := by
      rw [State.bytesAt_length]
      omega
    have collides := plotSprite_collision_iff s.fb (s.getV x) (s.getV y) few
    refine ⟨_, exec_drw_of_inRange x y inRange, frame_of_setScreen_setFlag s _ _, rfl,
      fun column row _ _ => (plotSprite_flips s.fb (s.getV x) (s.getV y) few).cells column row,
      fun hit => (State.getV_setV_self _ 0xF _).trans ?_, fun miss => (State.getV_setV_self _ 0xF _).trans ?_⟩
    · rw [collides.mpr hit]
      rfl
    · rw [Bool.eq_false_of_not_eq_true (collides.not.mpr miss)]
      rfl
  · have positive : 0 < n.toNat := by bv_omega
    exact ⟨_, exec_drw_of_outOfRange x y (rangeFault_eq_some positive (by omega)), s.raise_faultEntry _⟩

/-- Settles O49: both draws flip the same cells, and a first draw without a collision leaves them all on. -/
theorem drawingTwiceRestoresTheScreen : Obligations.DrawingTwiceRestoresTheScreen := by
  intro f x0 y0 rows h
  have few : rows.length ≤ 32 := by omega
  have first := plotSprite_flips f x0 y0 few
  refine ⟨first.screen_eq_of_twice (plotSprite_flips _ x0 y0 few), fun clear => ?_⟩
  rw [plotSprite_collision_iff _ x0 y0 few, ← exists_spriteCovers_iff x0 y0 rows]
  exact exists₂_congr fun _ _ => and_iff_left_of_imp (first.cellAt_of_not_collision clear)

/-- Settles O46: every cell of the clear framebuffer is off. -/
theorem clsClearsTheScreen : Obligations.ClsClearsTheScreen := by
  refine ⟨decodesAs_of_opField_of_kkField fun w hop hkk => ⟨rfl, wordXKK_eq_iff.mpr ⟨hop, rfl, hkk⟩⟩,
    fun s ign => ⟨_, rfl, (Frame.refl _ s).setScreen rfl blankScreen, rfl, fun c _ => ?_⟩⟩
  rw [State.setScreen_fb, cellByIndex_eq, cellAt_blankScreen]

end Sys2Proof.Machine
end

section
/-! PROOFS. The keyboard of spec/47_keyboard.md (R200 to R203): the cell of the key that a register names, the scan of
the first `n` keys and the highest pressed key among them, and the answers of the three instructions. -/

namespace Sys2Proof.Machine

/-! ## The key that a register names (R201, R202, R226) -/

/-- The key that a byte below 16 names is the one whose cell has the byte as its index. -/
theorem State.pressed_setWidth (s : State) {v : Byte} (h : v.toNat < 16) :
    s.pressed (v.setWidth 4) = s.key[v.toNat] := by
  simp [State.pressed, Nat.mod_eq_of_lt h]

section Operand

variable {s : State} {x : Nibble}

theorem exec_skp_of_lt (h : (s.getV x).toNat < 16) :
    exec (.skp x) s = .next (s.skipIf s.key[(s.getV x).toNat]) := by
  simp [exec, execSkp, keyOperand_ok h, s.pressed_setWidth h]

theorem exec_sknp_of_lt (h : (s.getV x).toNat < 16) :
    exec (.sknp x) s = .next (s.skipIf (!s.key[(s.getV x).toNat])) := by
  simp [exec, execSknp, keyOperand_ok h, s.pressed_setWidth h]

theorem exec_skp_of_gt (h : 0xF < (s.getV x).toNat) :
    exec (.skp x) s = .next (s.raise ⟨.keyIndex, (s.getV x).setWidth 16⟩) := by
  simp [exec, execSkp, keyOperand_error h]

theorem exec_sknp_of_gt (h : 0xF < (s.getV x).toNat) :
    exec (.sknp x) s = .next (s.raise ⟨.keyIndex, (s.getV x).setWidth 16⟩) := by
  simp [exec, execSknp, keyOperand_error h]

end Operand

/-! ## The scan (R200) -/

/-- The scan of the first `n` keys. -/
def State.scanBelow (s : State) (n : Nat) : Option Nibble :=
  (List.range n).foldl
    (fun k i => if s.pressed (BitVec.ofNat 4 i) then some (BitVec.ofNat 4 i) else k) none

theorem State.scanKeys_eq_scanBelow (s : State) : s.scanKeys = s.scanBelow 16 := rfl

theorem State.scanBelow_succ (s : State) (n : Nat) :
    s.scanBelow (n + 1) =
      if s.pressed (BitVec.ofNat 4 n) then some (BitVec.ofNat 4 n) else s.scanBelow n := by
  simp [State.scanBelow, List.range_succ]

/-- The answer is the highest pressed key among the first `n`, or none when they are all released. -/
def State.HighestBelow (s : State) (n : Nat) : Option Nibble → Prop
  | none => ∀ j : Nibble, j.toNat < n → s.pressed j = false
  | some k => k.toNat < n ∧ s.pressed k = true ∧ ∀ j : Nibble, k < j → j.toNat < n → s.pressed j = false

section Highest

variable {s : State} {n : Nat}

/-- A key among the first `n + 1` is one of the first `n`, or key `n`. -/
theorem lt_or_eq_ofNat_of_lt_succ {j : Nibble} (h : j.toNat < n + 1) : j.toNat < n ∨ j = BitVec.ofNat 4 n := by
  obtain below | rfl := Nat.lt_succ_iff_lt_or_eq.mp h
  · exact .inl below
  · exact .inr (by simp)

/-- Key `n`, when pressed, is the highest of the first `n + 1`. -/
theorem State.highestBelow_succ_of_pressed (hn : n < 16) (down : s.pressed (BitVec.ofNat 4 n) = true) :
    s.HighestBelow (n + 1) (some (BitVec.ofNat 4 n)) := by
  have index : (BitVec.ofNat 4 n).toNat = n := Nat.mod_eq_of_lt hn
  refine ⟨by omega, down, fun j above below => ?_⟩
  rw [BitVec.lt_def] at above
  omega

/-- Key `n`, when released, leaves the highest key as it is among the first `n`. -/
theorem State.HighestBelow.succ_of_released {r : Option Nibble} (h : s.HighestBelow n r)
    (up : s.pressed (BitVec.ofNat 4 n) = false) : s.HighestBelow (n + 1) r := by
  cases r with
  | none =>
    intro j hj
    obtain below | rfl := lt_or_eq_ofNat_of_lt_succ hj
    · exact h j below
    · exact up
  | some k =>
    obtain ⟨hk, down, released⟩ := h
    refine ⟨by omega, down, fun j above hj => ?_⟩
    obtain below | rfl := lt_or_eq_ofNat_of_lt_succ hj
    · exact released j above below
    · exact up

theorem State.scanBelow_highest (s : State) (hn : n ≤ 16) : s.HighestBelow n (s.scanBelow n) := by
  induction n with
  | zero => exact fun j impossible => absurd impossible (Nat.not_lt_zero _)
  | succ n ih =>
    rw [State.scanBelow_succ]
    split
    · next down => exact highestBelow_succ_of_pressed hn down
    · next up => exact (ih (by omega)).succ_of_released (Bool.eq_false_of_not_eq_true up)

/-- No key above the highest is pressed, so that of two highest keys neither is above the other. -/
theorem State.HighestBelow.unique {r r' : Option Nibble} (h : s.HighestBelow n r) (h' : s.HighestBelow n r') :
    r = r' := by
  match r, r', h, h' with
  | none, none, _, _ => rfl
  | none, some k', released, ⟨hk', down', _⟩ => exact absurd down' (Bool.eq_false_iff.mp (released k' hk'))
  | some k, none, ⟨hk, down, _⟩, released' => exact absurd down (Bool.eq_false_iff.mp (released' k hk))
  | some k, some k', ⟨hk, down, released⟩, ⟨hk', down', released'⟩ =>
    have notAbove : ¬k < k' := fun above => Bool.eq_false_iff.mp (released k' above hk') down'
    have notBelow : ¬k' < k := fun below => Bool.eq_false_iff.mp (released' k below hk) down
    exact congrArg some (BitVec.le_antisymm (BitVec.not_lt.mp notBelow) (BitVec.not_lt.mp notAbove))

end Highest

/-- The scan answers the highest pressed key, and only that. -/
theorem State.scanKeys_eq_iff (s : State) (r : Option Nibble) : s.scanKeys = r ↔ s.HighestBelow 16 r := by
  rw [State.scanKeys_eq_scanBelow]
  constructor
  · rintro rfl
    exact s.scanBelow_highest (Nat.le_refl 16)
  · exact (s.scanBelow_highest (Nat.le_refl 16)).unique

/-! ## The answers of the key wait (R203) -/

section Wait

variable {s : State} (x : Nibble)

theorem exec_ldVxK_of_scanKeys_some {k : Nibble} (found : s.scanKeys = some k) :
    exec (.ldVxK x) s = .next (s.setV x (k.setWidth 8)) := by
  simp [exec, execLdVxK, found]

theorem exec_ldVxK_of_scanKeys_none (found : s.scanKeys = none) : exec (.ldVxK x) s = .next s.rewind := by
  simp [exec, execLdVxK, found]

end Wait

/-- The rewind undoes the advance, but for the events that the advance drops. -/
theorem State.rewind_advance (s : State) : s.advance.rewind = s.setOut {} := by
  rw [State.rewind, State.advance_pc, BitVec.add_sub_cancel]
  rfl

/-! ## The statements -/

/-- Settles O50, on either side of the last key. -/
theorem keySkips : Obligations.KeySkips := by
  refine ⟨decodesAs_of_opField_of_kkField fun w hop hkk => ⟨rfl, wordXKK_eq_iff.mpr ⟨hop, rfl, hkk⟩⟩,
    decodesAs_of_opField_of_kkField fun w hop hkk => ⟨rfl, wordXKK_eq_iff.mpr ⟨hop, rfl, hkk⟩⟩,
    fun s x => ⟨fun h => ⟨?_, ?_⟩, fun h => ⟨?_, ?_⟩⟩⟩
  · exact completes_of_skipIf (exec_skp_of_lt h) rfl
  · exact completes_of_skipIf (exec_sknp_of_lt h) (by cases s.key[(s.getV x).toNat] <;> rfl)
  · exact ⟨_, exec_skp_of_gt h, s.raise_faultEntry _⟩
  · exact ⟨_, exec_sknp_of_gt h, s.raise_faultEntry _⟩

/-- Settles O51: every key is among the first 16. -/
theorem keyScanPrefersTheHighestIndex : Obligations.KeyScanPrefersTheHighestIndex := by
  refine fun s => ⟨fun k => (s.scanKeys_eq_iff (some k)).trans ?_, (s.scanKeys_eq_iff none).trans ?_, fun _ => rfl⟩
  · constructor
    · rintro ⟨_, down, released⟩
      exact ⟨down, fun j above => released j above j.isLt⟩
    · rintro ⟨down, released⟩
      exact ⟨k.isLt, down, fun j above _ => released j above⟩
  · exact forall_congr' fun j => forall_prop_of_true j.isLt

/-- Settles O52, on the two answers of the scan. -/
theorem keyWaitTakesTheHighestKeyOrWaits : Obligations.KeyWaitTakesTheHighestKeyOrWaits := by
  refine ⟨decodesAs_of_opField_of_kkField fun w hop hkk => ⟨rfl, wordXKK_eq_iff.mpr ⟨hop, rfl, hkk⟩⟩,
    fun s x => ?_⟩
  obtain ⟨found, notFound, _⟩ := keyScanPrefersTheHighestIndex s
  refine ⟨fun k down released => ?_, fun released => ?_⟩
  · exact completes_of_setV (exec_ldVxK_of_scanKeys_some x ((found k).mpr ⟨down, released⟩))
      (s.getV_setV_self x _)
  · exact ⟨_, exec_ldVxK_of_scanKeys_none x (notFound.mpr released), (Frame.refl _ s).setPc rfl _, rfl⟩

/-- Settles O53: the dispatch of the wait undoes the advance, so that the tick is all the step does. -/
theorem waitingStepOnlyTicks : Obligations.WaitingStepOnlyTicks := by
  intro s w x running fetched decoded released
  obtain ⟨_, notFound, _⟩ := keyScanPrefersTheHighestIndex s.advance
  have waits : exec (decodeWord w) s.advance = .next (s.setOut {}) := by
    rw [decoded, exec_ldVxK_of_scanKeys_none x (notFound.mpr fun j => released j.toFin), State.rewind_advance]
  refine ⟨(s.setOut {}).tick, ?_, ?_, ?_, ?_, ?_⟩
  · rw [step_of_dispatch running fetched waits, State.finish_of_running (s := s.setOut {}) running]
  · rw [State.tick_eq]
    rfl
  · rw [State.tick_DT, countDown_toNat, State.setOut_DT]
  · rw [State.tick_ST, countDown_toNat, State.setOut_ST]
  · rw [State.tick_eq]
    rfl

end Sys2Proof.Machine
end

section
/-! PROOFS. The decoder and the encoder of spec/30_encoding.md undo each other: on every well-formed instruction, and
on every word. -/

namespace Sys2Proof.Machine

/-- Settles O2, by `decodeWord_encode`, which splits on the families of R83. -/
theorem decodeReadsBackEveryEncodedInstruction : Obligations.DecodeReadsBackEveryEncodedInstruction :=
  fun _ wellFormed => decodeWord_encode wellFormed

/-- Settles O3, by `decodeWord_isInstrOf`, which follows the arms of the decode procedure R83. -/
theorem everyWordIsTheWordOfItsInstruction : Obligations.EveryWordIsTheWordOfItsInstruction :=
  decodeWord_isInstrOf

end Sys2Proof.Machine
end

section
/-! PROOFS. The timer instructions of spec/48_timers.md (R210 to R212), as the dispatch phase leaves them. -/

namespace Sys2Proof.Machine

/-- Settles O54: the three rows are decoded on their low byte, and each dispatch is one move. -/
theorem timerMoves : Obligations.TimerMoves := by
  refine ⟨decodesAs_of_opField_of_kkField fun w hop hkk => ⟨rfl, wordXKK_eq_iff.mpr ⟨hop, rfl, hkk⟩⟩,
    decodesAs_of_opField_of_kkField fun w hop hkk => ⟨rfl, wordXKK_eq_iff.mpr ⟨hop, rfl, hkk⟩⟩,
    decodesAs_of_opField_of_kkField fun w hop hkk => ⟨rfl, wordXKK_eq_iff.mpr ⟨hop, rfl, hkk⟩⟩,
    fun s x => ⟨?_, ?_, ?_⟩⟩
  · exact completes_of_setV rfl (s.getV_setV_self x _)
  · exact ⟨_, rfl, (Frame.refl _ s).setDT rfl _, rfl⟩
  · exact ⟨_, rfl, (Frame.refl _ s).setST rfl _, rfl⟩

end Sys2Proof.Machine
end

section
/-! PROOFS. The exceptions of spec/60_exceptions.md: a dispatch that stops the run is the fault entry of the one cause
R229 gives its instruction, `diag` is SYS's alone (R239), what each host event does (R236, R237), and what holds in
every run. -/

namespace Sys2Proof.Machine

/-! ## The faults of a dispatch (R227 to R229) -/

/-- A dispatch that stops the run took the instruction's one fault. -/
theorem exec_faultEntry_of_halted {i : Instr} {s t : State} (h : exec i s = .next t) (running : s.run = true)
    (halted : t.run = false) : ∃ trap, faultCauseOf i = some trap.cause ∧ FaultEntry (s.pc - 2) trap s t := by
  obtain fault | frame := exec_next h
  · exact fault
  · exact absurd halted (by simp [frame.run, running])

/-- ConfigFault is the host's to raise (R230): no instruction takes it. -/
theorem faultCauseOf_ne_config {i : Instr} : faultCauseOf i ≠ some .config := by
  cases i <;> simp [faultCauseOf]

/-- A step whose dispatch stopped the run ends without the tick (R107). -/
theorem State.finish_of_halted {s : State} (halted : s.run = false) : s.finish = s := by
  simp [State.finish, halted]

/-- Settles O12, on the two paths on which a step can stop the run: the fault of the fetch and the fault of the
dispatch. -/
theorem faultsArePrecise : Obligations.FaultsArePrecise := by
  intro s t running h halted
  obtain ⟨stopped, _⟩ | ⟨_, trap, fetched, rfl⟩ | ⟨_, w, m, _, dispatched, rfl⟩ := stepWith_next h
  · exact absurd running (by simp [stopped])
  · have cause := State.fetch_error_cause fetched
    exact ⟨trap, s.raiseAt_faultEntry s.pc trap, by simp [cause], by simp [cause]⟩
  · rw [State.finish_run] at halted
    obtain ⟨trap, cause, entry⟩ := exec_faultEntry_of_halted dispatched running halted
    rw [State.finish_of_halted halted]
    exact ⟨trap, entry.of_advance, fun isNone => faultCauseOf_ne_none (isNone ▸ cause),
      fun isConfig => faultCauseOf_ne_config (isConfig ▸ cause)⟩

/-- Settles O18: the recorded cause is the one of the instruction's row of R229. -/
theorem eachInstructionHasAtMostOneFault : Obligations.EachInstructionHasAtMostOneFault := by
  intro i s t running h halted
  obtain ⟨trap, cause, entry⟩ := exec_faultEntry_of_halted h running halted
  rw [← entry.cause] at cause
  cases i with
  | call | ret | skp | sknp | drw | ldB | storeRegs | loadRegs | illegal8 | illegalE | illegalF =>
    exact (Option.some.inj cause).symm
  | _ => cases cause

/-! ## Every step answers (R220, R235) -/

/-- On each of its three paths a step answers a next state. -/
theorem step_answers_next (s : State) : ∃ t, step s = .next t := by
  cases running : s.run with
  | false => exact ⟨_, step_of_halted running⟩
  | true =>
    cases fetched : s.fetch with
    | error trap => exact ⟨_, step_of_fetch_error running fetched⟩
    | ok w =>
      obtain ⟨m, dispatched⟩ := exec_answers_next (decodeWord w) s.advance
      exact ⟨_, step_of_dispatch running fetched dispatched⟩

/-- Settles O11: the dispatch's answer is the step's, on the one path of a step that has a dispatch. -/
theorem everyDispatchAndStepAnswersNext : Obligations.EveryDispatchAndStepAnswersNext :=
  ⟨exec_answers_next, step_answers_next⟩

/-! ## The event `diag` (R120, R239) -/

/-- The word of the `diag` event that the dispatch of an instruction emits, if it emits one. -/
def diagOf : Instr → Option Word
  | .sys nnn => some (encode (.sys nnn))
  | _ => none

/-- In a step that has emitted no `diag` so far, the dispatch emits the instruction's own. -/
theorem exec_diag {i : Instr} {s t : State} (h : exec i s = .next t) (silent : s.out.diag = none) :
    t.out.diag = diagOf i := by
  obtain ⟨trap, cause, entry⟩ | frame := exec_next h
  · cases i with
    | sys => cases cause
    | _ => rw [entry.out]; rfl
  · cases i with
    | sys => cases h; rfl
    | _ => exact (frame.diag rfl).trans silent

/-- The words of SYS are those of the `0` family that are neither CLS nor RET (R88, R120). -/
theorem diagOf_decodeWord (w : Word) :
    diagOf (decodeWord w) = if opField w = 0x0 ∧ kkField w ≠ 0xE0 ∧ kkField w ≠ 0xEE then some w else none := by
  obtain ⟨hwf, hword⟩ := decodeWord_isInstrOf w
  generalize decodeWord w = i at hwf hword
  subst hword
  cases i with
  | sys nnn =>
    have notClsOrRet : ¬nnn.extractLsb' 0 8 = 0xE0 ∧ ¬nnn.extractLsb' 0 8 = 0xEE := by
      simpa [Instr.wellFormed, zeroCodes] using hwf
    simpa [diagOf, encode] using notClsOrRet
  | _ => simp [diagOf, encode]

/-- The end of a step emits no `diag` (R105). -/
theorem State.finish_diag (s : State) : s.finish.out.diag = s.out.diag := by
  unfold State.finish
  split
  · rw [State.tick_eq]
  · rfl

/-- Settles O15: a fetched step emits the `diag` of the instruction it decoded. -/
theorem diagIsEmittedExactlyBySys : Obligations.DiagIsEmittedExactlyBySys := by
  intro s t w running fetched h
  obtain ⟨m, dispatched⟩ := exec_answers_next (decodeWord w) s.advance
  rw [step_of_dispatch running fetched dispatched] at h
  cases h
  rw [State.finish_diag, exec_diag dispatched rfl, diagOf_decodeWord]

/-! ## The host events (R230, R236, R237, R260, R262) -/

section Load

variable {s : State} {bytes : List Byte}

/-- A halted machine refuses a program (R262). -/
theorem State.load_of_halted (halted : s.run = false) : s.load bytes = s := by
  simp [State.load, halted]

/-- A program of no byte or of more than `MAX_PROGRAM_LEN` is a configuration fault (R230). -/
theorem State.load_of_badLength (running : s.run = true) (bad : bytes.length = 0 ∨ 0xE00 < bytes.length) :
    s.load bytes = s.configFault bytes.length := by
  simp only [State.load, running, if_true, maxProgramLen, bad]

/-- A program that fits is stored at `PROGRAM_BASE` (R262). -/
theorem State.load_of_fits (running : s.run = true) (nonempty : 1 ≤ bytes.length) (fits : bytes.length ≤ 0xE00) :
    s.load bytes = s.storeAt programBase bytes := by
  have good : ¬(bytes.length = 0 ∨ 0xE00 < bytes.length) := by omega
  simp only [State.load, running, if_true, maxProgramLen, good, if_false]

/-- A program that fits ends at or below the last address. -/
theorem rangeFault_programBase (fits : bytes.length ≤ 0xE00) : rangeFault programBase bytes.length = none := by
  have base : programBase.toNat = 0x200 := rfl
  exact rangeFault_eq_none.mpr (by omega)

/-- Everything `load` can do: nothing, the configuration fault, or the store of a program that fits. -/
theorem State.load_cases (s : State) (bytes : List Byte) :
    (s.run = false ∧ s.load bytes = s) ∨
    (s.run = true ∧ s.load bytes = s.configFault bytes.length) ∨
    (s.run = true ∧ rangeFault programBase bytes.length = none ∧ s.load bytes = s.storeAt programBase bytes) := by
  cases running : s.run with
  | false => exact .inl ⟨rfl, State.load_of_halted running⟩
  | true =>
    by_cases bad : bytes.length = 0 ∨ 0xE00 < bytes.length
    · exact .inr (.inl ⟨rfl, State.load_of_badLength running bad⟩)
    · exact .inr (.inr ⟨rfl, rangeFault_programBase (by omega),
        State.load_of_fits running (by omega) (by omega)⟩)

end Load

/-- The halt of a rejected program meets the invariant: the record names `pc`, and a cause (R230). -/
theorem State.Inv.configFault {s : State} (hs : s.Inv) (len : Nat) : (s.configFault len).Inv where
  __ := hs
  record := by simp [State.configFault]
  clean running := by cases running
  haltedAt _ := rfl

theorem State.Inv.load {s : State} (hs : s.Inv) (bytes : List Byte) : (s.load bytes).Inv := by
  obtain ⟨_, same⟩ | ⟨_, rejected⟩ | ⟨_, inRange, stored⟩ := s.load_cases bytes
  · rwa [same]
  · rw [rejected]; exact hs.configFault _
  · rw [stored]; exact { hs with memory := s.storeAt_wf inRange hs.memory }

/-- Settles O22, event by event: `reset` is power-on but for the keys and the draws, and the last three write nothing
the invariant speaks of. -/
theorem hostEventsKeepTheInvariant : Obligations.HostEventsKeepTheInvariant := by
  intro s e hs
  cases e with
  | reset => exact { State.powerOn_inv s.cfg with }
  | load bytes => exact hs.load bytes
  | setKey | kbdReset | clearRedraw => exact { hs with }

/-- No host event writes the configuration (R35(c)). -/
theorem State.host_cfg (s : State) (e : HostEvent) : (s.host e).cfg = s.cfg := by
  cases e with
  | load bytes =>
    change (s.load bytes).cfg = s.cfg
    obtain ⟨_, same⟩ | ⟨_, rejected⟩ | ⟨_, _, stored⟩ := s.load_cases bytes
    · rw [same]
    · rw [rejected]; rfl
    · rw [stored]; rfl
  | reset | setKey | kbdReset | clearRedraw => rfl

/-! ## Every run -/

/-- Settles O23, by induction on the run: power-on meets the invariant (O20), and each step (O21) and each host event
(O22) keeps it. -/
theorem everyReachableStateMeetsTheInvariant : Obligations.EveryReachableStateMeetsTheInvariant := by
  intro cfg s reachable
  induction reachable with
  | powerOn => exact ⟨State.powerOn_inv cfg, rfl⟩
  | step _ stepped ih =>
    obtain ⟨inv, hcfg⟩ := ih
    obtain ⟨_, kept, _⟩ := stepsLeaveTheHostsStateAlone _ _ stepped
    exact ⟨stepKeepsTheInvariant _ _ inv stepped, kept.trans hcfg⟩
  | host e _ ih =>
    obtain ⟨inv, hcfg⟩ := ih
    exact ⟨hostEventsKeepTheInvariant _ e inv, (State.host_cfg _ e).trans hcfg⟩

/-! ## The fault record (R221, R231, R232) -/

/-- No cause has the code 7 (R221). -/
theorem faultCode_ne_seven (c : FaultCause) : faultCode c ≠ 7 := by
  cases c <;> decide

/-- A halted machine keeps its fault record under every host event but `reset` (R231). -/
theorem State.faultRecord_host_of_halted {s : State} (halted : s.run = false) {e : HostEvent} (he : e ≠ .reset) :
    (s.host e).faultRecord = s.faultRecord := by
  cases e with
  | reset => exact absurd rfl he
  | load bytes => exact congrArg State.faultRecord (State.load_of_halted halted)
  | setKey | kbdReset | clearRedraw => rfl

/-- Settles O59: a halted machine's step and the events but `reset` leave the record, and `reset` clears it. -/
theorem onlyResetRevivesAHaltedMachine : Obligations.OnlyResetRevivesAHaltedMachine := by
  refine ⟨fun _ => rfl, ⟨rfl, rfl, rfl, rfl, rfl, rfl, rfl, faultCode_ne_seven⟩,
    fun s halted => ⟨fun t h => ?_, fun e he => State.faultRecord_host_of_halted halted he, rfl⟩⟩
  rw [step_of_halted halted] at h
  cases h
  exact ⟨halted, rfl⟩

/-! ## The small host events (R237) -/

/-- A key index outside 0..15 writes no cell. -/
theorem State.setKey_of_le (s : State) {i : Nat} (outside : 16 ≤ i) (p : Bool) : s.setKey i p = s := by
  simp [State.setKey, Vector.setIfInBounds_eq_of_size_le, outside]

/-- The host's view of the screen, with the number of cells as a numeral and each cell as 0 or 1. -/
theorem State.framebuffer_eq (s : State) :
    s.framebuffer = (List.range 2048).map fun c => if cellByIndex s.fb c then 1 else 0 := rfl

/-- Entry `c` of the host's view is cell `c`, and there is no entry past the last cell. -/
theorem State.framebuffer_getElem? (s : State) (c : Nat) :
    s.framebuffer[c]? = if c < 2048 then some (if cellByIndex s.fb c then 1 else 0) else none := by
  rw [State.framebuffer_eq, List.getElem?_map]
  split
  · next inside => rw [List.getElem?_range inside, Option.map_some]
  · next outside => rw [List.getElem?_eq_none (by simpa using outside), Option.map_none]

/-- Settles O57: each event is one field update, and a key index is in bounds or writes nothing. -/
theorem smallHostEvents : Obligations.SmallHostEvents := by
  refine fun s i p => ⟨fun j => ?_, rfl, fun outside => s.setKey_of_le outside p, fun j => ?_, rfl, rfl, rfl, ?_,
    s.framebuffer_getElem?⟩
  · simp [State.setKey, Vector.getElem_setIfInBounds, eq_comm]
  · simp [State.kbdReset]
  · simp [State.framebuffer_eq]

end Sys2Proof.Machine
end

section
/-! PROOFS. Reset, the program load and the end of a run (spec/70_reset_and_hazards.md R260, R262, R271). -/

namespace Sys2Proof.Machine

/-! ## Reset (R260) -/

/-- Memory after reset: the font table below 0x50, zero above (R33, R34). -/
theorem Memory.unlisted_eq (font : Vector Byte 80) (a : Nat) :
    Memory.unlisted font a = if h : a < 0x50 then font[a] else 0 := by
  unfold Memory.unlisted
  split
  · next inFont => rw [Vector.getElem?_eq_getElem inFont, Option.getD_some]
  · next above => rw [Vector.getElem?_eq_none (Nat.le_of_not_lt above), Option.getD_none]

/-- Settles O55, field by field of power-on. -/
theorem resetInstallsTheResetValues : Obligations.ResetInstallsTheResetValues := by
  refine fun s => ⟨fun i => ?_, rfl, rfl, rfl, fun j => ?_, rfl, rfl, rfl, rfl, rfl, rfl,
    fun a => Memory.unlisted_eq s.cfg.font a, fun c _ => cellAt_blankScreen _ _, rfl, rfl, rfl, rfl⟩
  · simp [State.getV, State.resetEvent, State.powerOn]
  · simp [State.resetEvent, State.powerOn]

/-! ## The program load (R262) -/

/-- Settles O56, on the three cases of `load`. -/
theorem loadWritesTheProgram : Obligations.LoadWritesTheProgram := by
  refine fun s bytes => ⟨fun running hm nonempty fits => ?_, State.load_of_badLength, State.load_of_halted⟩
  have inRange := rangeFault_programBase fits
  rw [State.load_of_fits running nonempty fits]
  exact ⟨fun j hj => State.peek_storeAt_stored hj inRange hm, fun a outside => s.peek_storeAt_outside outside, rfl⟩

/-! ## The end of a run (R271) -/

/-- A run has ended when it runs at a word that decodes to a jump to its own address. -/
theorem State.ended_iff {s : State} :
    s.ended = true ↔ s.run = true ∧ ∃ w, s.fetch = .ok w ∧ decodeWord w = .jp (s.pc.setWidth 12) := by
  cases fetched : s.fetch <;> simp [State.ended, fetched]

/-- An address that a fetch succeeds at fits the 12 bits of a jump's target. -/
theorem addrOperand_setWidth {pc : Word} (h : pc.toNat ≤ 0xFFE) : addrOperand (pc.setWidth 12) = pc := by
  apply BitVec.eq_of_toNat_eq
  rw [addrOperand_toNat, BitVec.toNat_setWidth]
  omega

/-- Settles O58: the dispatch of a jump to itself undoes the advance, so that the tick is all the step does. -/
theorem endedRunsOnlyTick : Obligations.EndedRunsOnlyTick := by
  intro s ended
  obtain ⟨running, w, fetched, decoded⟩ := State.ended_iff.mp ended
  have jumps : exec (decodeWord w) s.advance = .next (s.setOut {}) := by
    rw [decoded]
    change Host.Outcome.next (s.advance.setPc (addrOperand (s.pc.setWidth 12))) = _
    rw [addrOperand_setWidth (State.pc_le_of_fetch_ok fetched)]
    rfl
  obtain ⟨t, stepped, hDT, hST, _, ticked⟩ := tickFollowsEveryCompletedStep s _ w running fetched jumps running
  refine ⟨t, stepped, ?_, ?_, hDT, hST⟩
  · rw [congrArg State.out ticked]
    exact ticked
  · rw [ticked]
    exact ended

end Sys2Proof.Machine
end
